-- ==== Sys2Proof/Word.lean ====
section
/-! DEFINITION. The word types of the hardware: the byte of the telemetry stream, the nibble (wire digit)
and the 32-bit integer of the codec (00_scope.md R8, R10, R12, R15). -/

namespace Sys2Proof

/-- A byte, 0..255 (R15; PRESUMED by the spec itself, log 28). -/
abbrev Byte := BitVec 8

/-- A nibble, "a 4-bit value, the wire unit for transmitting measurement digits" (R10). -/
abbrev Nibble := BitVec 4

/-- The `u32` of the codec: the encoder's operand and a decoded measurement, `DEC_W = 32` (R12, R110). -/
abbrev U32 := BitVec 32

end Sys2Proof
end

