-- ==== Sys2Proof/Syntax.lean ====
section
/-! DEFINITION. The operations of the hardware (one constructor per row of the opcode table, 30_encoding.md
R92) and the stimuli that play the part of its program (00_scope.md R2). -/

namespace Sys2Proof

/-- One operation of the hardware. The constructors stand in the order of the opcode table. -/
inductive Instr where
  /-- `TC.NOP` (R105). -/
  | tcNop
  /-- `TC.TICK` (R101). -/
  | tcTick
  /-- `TC.RESET` (R102); `en` is the don't-care bit of the command `1x` (log 17). -/
  | tcReset (en : Bool)
  /-- `TC.VALUE` (R103). -/
  | tcValue
  /-- `ENC.MEASUREMENT` with its 32-bit operand (R110). -/
  | encMeasurement (value : U32)
  /-- `ENC.END_OF_TRAINING` (R113). -/
  | encEndOfTraining
  /-- `FSM.IDLE` (R150). -/
  | fsmIdle
  /-- `FSM.TRAINWAIT` (R151). -/
  | fsmTrainWait
  /-- `FSM.TRAINCOUNT` (R152). -/
  | fsmTrainCount
  /-- `FSM.STRETCHWAIT` (R153). -/
  | fsmStretchWait
  /-- `FSM.HOLDING` (R154). -/
  | fsmHolding
  /-- `FSM.HOLDINGDONE` (R156). -/
  | fsmHoldingDone
  /-- `FSM.ABORT` (R157). -/
  | fsmAbort
  /-- `DEC.IDLE.START` (R181). -/
  | decIdleStart
  /-- `DEC.IDLE.OTHER` on the byte `b` (R182). -/
  | decIdleOther (b : Byte)
  /-- `DEC.TRAINING.NIBBLE` on the digit `n` (R183). -/
  | decTrainingNibble (n : Nibble)
  /-- `DEC.TRAINING.MEASURED.GROUP` (R184). -/
  | decTrainingMeasuredGroup
  /-- `DEC.TRAINING.MEASURED.BARE` (R185). -/
  | decTrainingMeasuredBare
  /-- `DEC.TRAINING.FINISH` (R187). -/
  | decTrainingFinish
  /-- `DEC.TRAINING.OTHER` on the byte `b` (R189). -/
  | decTrainingOther (b : Byte)
  /-- `DEC.STRETCHING.FINISH` (R190). -/
  | decStretchingFinish
  /-- `DEC.STRETCHING.OTHER` on the byte `b` (R191). -/
  | decStretchingOther (b : Byte)
  /-- The wire symbol `NIBBLE` carrying the digit `n` (R71). -/
  | wireNibble (n : Nibble)
  /-- The wire symbol `START` (R72). -/
  | wireStart
  /-- The wire symbol `MEASURED` (R72). -/
  | wireMeasured
  /-- The wire symbol `FINISH` (R72). -/
  | wireFinish
deriving DecidableEq, Repr

/-- One stimulus: whose turn it is and what the outside world presents to it (R2, R62, R214; log 3). -/
inductive Stimulus where
  /-- One device tick with the samples of its two inputs (R50 to R52). -/
  | tick (lineLevel trigger : Bool)
  /-- The decoder takes the next byte of the device's telemetry stream (R56, R180). -/
  | deliver
  /-- A byte is presented to the decoder from outside the device's stream: a decoder program (R2, R188; log 11). -/
  | wireByte (b : Byte)
  /-- One time step of the stand-alone TickCounter with its command bits (R80, R104). -/
  | tcCommand (rst en : Bool)
  /-- A read `value()` of the stand-alone TickCounter (R103). -/
  | tcRead
  /-- A call of `encode_measurement(value)` (R110). -/
  | encodeMeasurement (value : U32)
  /-- A call of `encode_end_of_training()` (R113). -/
  | encodeEndOfTraining
  /-- The host creates a fresh decoder instance (R188, R215; log 19). -/
  | freshDecoder
deriving DecidableEq, Repr, Inhabited

end Sys2Proof
end

