-- ==== Sys2Proof/Config.lean ====
section
/-! DEFINITION. The configuration record CFG with its constraints (00_scope.md section 4, R6 to R13), the
reference configuration, and the model's one free value. -/

namespace Sys2Proof

/-- The open parameters of CFG (R6, R7, R8, R100). -/
structure Params where
  /-- `W`, width in bits of each accumulator (R6). -/
  W : Nat
  /-- `TICK_MAX`, saturation bound of the accumulators (R7). -/
  tickMax : Nat
  /-- The marker byte `START` (R8). -/
  start : Byte
  /-- The marker byte `MEASURED` (R8). -/
  measured : Byte
  /-- The marker byte `FINISH` (R8). -/
  finish : Byte
  /-- `max`, saturation bound of the stand-alone TickCounter (R100). -/
  tcMax : Nat
deriving DecidableEq, Repr

/-- The constraints of 00_scope.md section 4: `1 <= W <= 32`, `1 <= TICK_MAX <= 2^W - 1`, the markers at
least 0x10 and pairwise distinct (R6, R7, R8). -/
def Params.valid (p : Params) : Bool :=
  decide (1 ≤ p.W) && decide (p.W ≤ 32)
  && decide (1 ≤ p.tickMax) && decide (p.tickMax ≤ 2 ^ p.W - 1)
  && decide (16 ≤ p.start.toNat) && decide (16 ≤ p.measured.toNat) && decide (16 ≤ p.finish.toNat)
  && decide (p.start ≠ p.measured) && decide (p.start ≠ p.finish) && decide (p.measured ≠ p.finish)

/-- A configuration that meets its constraints; one that does not cannot be built, as 93 U7 asks (log 1). -/
structure Config extends Params where
  /-- The constraints hold. -/
  ok : toParams.valid = true
deriving DecidableEq, Repr

namespace Config

/-- `HOLD_W = W + 1` (R11). -/
def holdW (c : Config) : Nat := c.W + 1

/-- `CFG_REF`: the spec's own reference values (D1, D2, D3; DESIGN CHOICE, log 2). -/
def ref : Config where
  W := 32
  tickMax := 4294967295
  start := 0xF0#8
  measured := 0xF1#8
  finish := 0xF2#8
  tcMax := 4294967295
  ok := by decide

/-- FREE VALUE (log 4): what the outside world does next when no stimulus is pending. It has no body, so
nothing can be proved of its value. -/
opaque freeStimulus : Nat → Stimulus

end Config

end Sys2Proof
end

