-- ==== Sys2Proof/WellFormed.lean ====
section
/-! DEFINITION. The well-formedness check of an operation: the byte of an "other `b`" row is one that the
named rows before it do not take (30_encoding.md R87, R92; 46_telemetry_decoder.md R180). -/

namespace Sys2Proof

/-- The operation's operand is one its row admits, under the markers of `c`. -/
def Instr.wellFormed (c : Config) : Instr → Bool
  | .tcNop | .tcTick | .tcReset _ | .tcValue => true
  | .encMeasurement _ | .encEndOfTraining => true
  | .fsmIdle | .fsmTrainWait | .fsmTrainCount | .fsmStretchWait => true
  | .fsmHolding | .fsmHoldingDone | .fsmAbort => true
  | .decIdleStart => true
  | .decIdleOther b => decide (b ≠ c.start)
  | .decTrainingNibble _ => true
  | .decTrainingMeasuredGroup | .decTrainingMeasuredBare | .decTrainingFinish => true
  | .decTrainingOther b => decide (16 ≤ b.toNat) && decide (b ≠ c.measured) && decide (b ≠ c.finish)
  | .decStretchingFinish => true
  | .decStretchingOther b => decide (b ≠ c.finish)
  | .wireNibble _ | .wireStart | .wireMeasured | .wireFinish => true

end Sys2Proof
end

