-- ==== Sys2Proof/Decode.lean ====
section
/-! DEFINITION. The decoder of selector words, the encoder, and the reading of the opcode table's words
(30_encoding.md R70 to R72, R80, R85, R87, R92, R95). -/

namespace Sys2Proof

/-- The byte that carries a digit: upper four bits zero (R71). -/
def nibbleByte (n : Nibble) : Byte := n.setWidth 8

/-- The class of a byte on the telemetry stream (R70). -/
inductive ByteClass where
  | nibble (n : Nibble)
  | start
  | measured
  | finish
  | other (b : Byte)
deriving DecidableEq, Repr

/-- `classify(b)` (R70). -/
def classify (c : Config) (b : Byte) : ByteClass :=
  if b.toNat ≤ 15 then .nibble (b.setWidth 4)
  else if b = c.start then .start
  else if b = c.measured then .measured
  else if b = c.finish then .finish
  else .other b

/-- A selector word in its format (R95), with what the row needs beside its bits: the encoder's operand
(`encFn`) and whether `pending` is empty (the `condition` of the two `MEASURED` rows). -/
inductive Selector where
  /-- `tc_cmd`, `{rst[1], en[0]}` (R80). -/
  | tcCmd (w : BitVec 2)
  /-- the read `value()`, which has no selector bits (R103). -/
  | tcRead
  /-- `enc_fn`, one bit, with the operand of the call (R110). -/
  | encFn (w : BitVec 1) (value : U32)
  /-- `fsm_state`, `st[2:0]` (R85). -/
  | fsmState (w : BitVec 3)
  /-- `dec_byte`, `{phase[9:8], b[7:0]}`, with the side condition on `pending` (R87). -/
  | decByte (w : BitVec 10) (pendingEmpty : Bool)
  /-- `wire_byte`, eight bits (R70). -/
  | wireByte (b : Byte)
deriving DecidableEq, Repr

/-- Why a selector word names no operation. -/
inductive DecodeError where
  /-- `fsm_state` code 7 (R85, U6). -/
  | unusedStateCode
  /-- decoder phase code 3 (R87, U6). -/
  | unusedPhaseCode
  /-- a `wire_byte` of class `OTHER`: reserved, no row of that format (R78). -/
  | reservedWireByte (b : Byte)
deriving DecidableEq, Repr

/-- The `tc_cmd` rows (R80). -/
def decodeTcCmd (w : BitVec 2) : Instr :=
  if w = 0b00#2 then .tcNop
  else if w = 0b01#2 then .tcTick
  else .tcReset (w.getLsbD 0)

/-- The `enc_fn` rows (R92). -/
def decodeEncFn (w : BitVec 1) (value : U32) : Instr :=
  if w = 0b0#1 then .encMeasurement value else .encEndOfTraining

/-- The `fsm_state` rows (R85). -/
def decodeFsmState (w : BitVec 3) : Except DecodeError Instr :=
  if w = 0b000#3 then .ok .fsmIdle
  else if w = 0b001#3 then .ok .fsmTrainWait
  else if w = 0b010#3 then .ok .fsmTrainCount
  else if w = 0b011#3 then .ok .fsmStretchWait
  else if w = 0b100#3 then .ok .fsmHolding
  else if w = 0b101#3 then .ok .fsmHoldingDone
  else if w = 0b110#3 then .ok .fsmAbort
  else .error .unusedStateCode

/-- The two `dec_byte` rows of phase `Idle`, in order (R180). -/
def decodeIdleByte (c : Config) (b : Byte) : Instr :=
  match classify c b with
  | .start => .decIdleStart
  | _ => .decIdleOther b

/-- The five `dec_byte` rows of phase `Training`, in order (R180). -/
def decodeTrainingByte (c : Config) (b : Byte) (pendingEmpty : Bool) : Instr :=
  match classify c b with
  | .nibble n => .decTrainingNibble n
  | .measured => if pendingEmpty then .decTrainingMeasuredBare else .decTrainingMeasuredGroup
  | .finish => .decTrainingFinish
  | .start | .other _ => .decTrainingOther b

/-- The two `dec_byte` rows of phase `Stretching`, in order (R180). -/
def decodeStretchingByte (c : Config) (b : Byte) : Instr :=
  match classify c b with
  | .finish => .decStretchingFinish
  | _ => .decStretchingOther b

/-- The `dec_byte` rows (R87): phase in bits 9..8, byte in bits 7..0. -/
def decodeDecByte (c : Config) (w : BitVec 10) (pendingEmpty : Bool) : Except DecodeError Instr :=
  let phase := w.extractLsb' 8 2
  let b := w.extractLsb' 0 8
  if phase = 0b00#2 then .ok (decodeIdleByte c b)
  else if phase = 0b01#2 then .ok (decodeTrainingByte c b pendingEmpty)
  else if phase = 0b10#2 then .ok (decodeStretchingByte c b)
  else .error .unusedPhaseCode

/-- The `wire_byte` rows (R70 to R72); a byte of class `OTHER` is reserved (R78). -/
def decodeWireByte (c : Config) (b : Byte) : Except DecodeError Instr :=
  match classify c b with
  | .nibble n => .ok (.wireNibble n)
  | .start => .ok .wireStart
  | .measured => .ok .wireMeasured
  | .finish => .ok .wireFinish
  | .other b => .error (.reservedWireByte b)

/-- The decoder: total on every selector word, rejecting by name. -/
def decode (c : Config) : Selector → Except DecodeError Instr
  | .tcCmd w => .ok (decodeTcCmd w)
  | .tcRead => .ok .tcValue
  | .encFn w value => .ok (decodeEncFn w value)
  | .fsmState w => decodeFsmState w
  | .decByte w pendingEmpty => decodeDecByte c w pendingEmpty
  | .wireByte b => decodeWireByte c b

/-- The `dec_byte` word `{phase, b}` (R87). -/
def decByteWord (phase : BitVec 2) (b : Byte) : BitVec 10 := phase ++ b

/-- The encoder: the selector word of an operation, from the tables of R80, R85, R87, R92 and R70. The
`MEASURED` rows also give the side condition that tells them apart. -/
def encode (c : Config) : Instr → Selector
  | .tcNop => .tcCmd 0b00#2
  | .tcTick => .tcCmd 0b01#2
  | .tcReset en => .tcCmd (if en then 0b11#2 else 0b10#2)
  | .tcValue => .tcRead
  | .encMeasurement value => .encFn 0b0#1 value
  | .encEndOfTraining => .encFn 0b1#1 0#32
  | .fsmIdle => .fsmState 0b000#3
  | .fsmTrainWait => .fsmState 0b001#3
  | .fsmTrainCount => .fsmState 0b010#3
  | .fsmStretchWait => .fsmState 0b011#3
  | .fsmHolding => .fsmState 0b100#3
  | .fsmHoldingDone => .fsmState 0b101#3
  | .fsmAbort => .fsmState 0b110#3
  | .decIdleStart => .decByte (decByteWord 0b00#2 c.start) true
  | .decIdleOther b => .decByte (decByteWord 0b00#2 b) true
  | .decTrainingNibble n => .decByte (decByteWord 0b01#2 (nibbleByte n)) true
  | .decTrainingMeasuredGroup => .decByte (decByteWord 0b01#2 c.measured) false
  | .decTrainingMeasuredBare => .decByte (decByteWord 0b01#2 c.measured) true
  | .decTrainingFinish => .decByte (decByteWord 0b01#2 c.finish) true
  | .decTrainingOther b => .decByte (decByteWord 0b01#2 b) true
  | .decStretchingFinish => .decByte (decByteWord 0b10#2 c.finish) true
  | .decStretchingOther b => .decByte (decByteWord 0b10#2 b) true
  | .wireNibble n => .wireByte (nibbleByte n)
  | .wireStart => .wireByte c.start
  | .wireMeasured => .wireByte c.measured
  | .wireFinish => .wireByte c.finish

/-- The selector that an `nbits`-bit word of the opcode table stands for (log 15). The table's formats
overlap as bare numbers, and a word in whole bytes no longer says its format: eight bits are read as an
FSM state code where they are one (`st` is the hardware's program counter, R21), else as a wire byte;
sixteen bits are a `dec_byte` word met with `pending` empty, as after reset. Exact widths 0, 1, 2, 3 and
10 name their format. -/
def Selector.ofTableWord (nbits w : Nat) : Option Selector :=
  match nbits with
  | 0 => if w = 0 then some .tcRead else none
  | 1 => if w < 2 then some (.encFn (BitVec.ofNat 1 w) 0#32) else none
  | 2 => if w < 4 then some (.tcCmd (BitVec.ofNat 2 w)) else none
  | 3 => if w < 8 then some (.fsmState (BitVec.ofNat 3 w)) else none
  | 8 =>
    if w < 7 then some (.fsmState (BitVec.ofNat 3 w))
    else if w < 256 then some (.wireByte (BitVec.ofNat 8 w)) else none
  | 10 => if w < 1024 then some (.decByte (BitVec.ofNat 10 w) true) else none
  | 16 => if w < 1024 then some (.decByte (BitVec.ofNat 10 w) true) else none
  | _ => none

/-- The operation the decoder reads from a word numbered as the opcode table numbers it, under the
markers the table shows (`CFG_REF`, R95); none where it refuses. -/
def decodeTableWord (nbits w : Nat) : Option Instr :=
  match Selector.ofTableWord nbits w with
  | some sel => (decode Config.ref sel).toOption
  | none => none

end Sys2Proof
end

