-- ==== Sys2Proof/Machine/State.lean ====
section
/-! DEFINITION. The state of the hardware as plain data (10_state.md R20 to R34, R40), its reset value, and
the reasons a step can stop. -/

namespace Sys2Proof.Machine

/-- The seven states of the observer/replicator FSM (R21). -/
inductive FsmState where
  | idle
  | trainWait
  | trainCount
  | stretchWait
  | holding
  | holdingDone
  | abort
deriving DecidableEq, Repr

/-- The measurement index `idx`: 0, 1, 2 and nothing else (R24, R86). -/
inductive MeasIdx where
  /-- 0, selects `meas[0]`. -/
  | low0
  /-- 1, selects `meas[1]`. -/
  | high0
  /-- 2, selects `meas[2]`. -/
  | low1
deriving DecidableEq, Repr

/-- The device state `D` (R20). The counts are exact naturals; that they fit their registers of `W` and
`W + 1` bits is an invariant (log 5). -/
structure Device where
  /-- FSM state register (R21). -/
  st : FsmState
  /-- Line level sampled at the previous tick (R22). -/
  cur : Bool
  /-- Line level sampled one tick before that (R23). -/
  prev : Bool
  /-- Measurement index (R24). -/
  idx : MeasIdx
  /-- `meas[0]` (R25). -/
  low0 : Nat
  /-- `meas[1]` (R25). -/
  high0 : Nat
  /-- `meas[2]` (R25). -/
  low1 : Nat
  /-- Hold-duration countdown (R26). -/
  hold : Nat
deriving DecidableEq, Repr

/-- The stand-alone TickCounter's register (R27); its `max` is `Config.tcMax`. -/
structure TickCounter where
  count : Nat
deriving DecidableEq, Repr

/-- The DecoderPhase (R32). -/
inductive Phase where
  | idle
  | training
  | stretching
deriving DecidableEq, Repr

/-- The decoder state `S` (R31). -/
structure Decoder where
  /-- DecoderPhase (R32). -/
  phase : Phase
  /-- Pending nibbles, first to arrive first (R33). -/
  pending : List Nibble
  /-- Completed measurements, in order (R34). -/
  done : List U32
deriving DecidableEq, Repr

/-- The decoder's events (R90). -/
inductive Event where
  | startTraining
  | finishTraining (measurements : List U32)
  | startStretching
  | finishStretching
  | unhandled (phase : Phase) (byte : Byte)
deriving DecidableEq, Repr

/-- The input ports as sampled for the tick being performed (R50 to R52; not spec state, log 3). -/
structure Ports where
  lineLevel : Bool
  trigger : Bool
deriving DecidableEq, Repr

/-- The outputs of the last step that produced them (R53, R55, R103, R110; not spec state, log 14). -/
structure Outputs where
  /-- `line_override_enable` of the last tick (R53). -/
  lineOverrideEnable : Bool
  /-- `tx` of the last tick (R55). -/
  burst : List Byte
  /-- What the last `value()` returned (R103). -/
  tcValue : Nat
  /-- What the last call of an encoder function returned (R110, R113). -/
  encoded : List Byte
deriving DecidableEq, Repr

/-- Why the machine stops. The hardware has no fault (R158, R193, R200); see log 20. -/
inductive Fault where
  /-- Raised by `step` if the selector word a stimulus presents names no operation. Safe; `step` never
  presents such a word. -/
  | undecodable (e : DecodeError)
deriving DecidableEq, Repr

/-- Why an operation has no meaning. -/
inductive Refusal where
  /-- Raised by an arm of `exec` whose operation is not modelled. Safe; no arm is left in that state. -/
  | notModelled (mnemonic : String)
deriving DecidableEq, Repr


/-- Everything the machine holds: the device, the stand-alone TickCounter, the decoder, the telemetry
stream between them, and the model's own bookkeeping of configuration, inputs and outputs. -/
structure State where
  /-- CFG, fixed at construction (R13; log 1). -/
  cfg : Config
  /-- The device state `D` (R20). -/
  dev : Device
  /-- The stand-alone TickCounter (R27). -/
  tc : TickCounter
  /-- The decoder state `S` (R31). -/
  dec : Decoder
  /-- Inputs of the tick being performed (R28(a)). -/
  ports : Ports
  /-- Outputs of the last step (R28(b)). -/
  out : Outputs
  /-- The telemetry stream emitted so far (R55). -/
  stream : List Byte
  /-- The bytes of the stream the decoder has not taken yet, oldest first (R55, R56; log 12). -/
  channel : List Byte
  /-- The events the decoder instance has produced, in order (R180, R188). -/
  events : List Event
  /-- Number of device ticks done, the `t` of R14. -/
  tick : Nat
  /-- The pending stimulus, oldest first (R2; log 3). -/
  stimulus : List Stimulus
  /-- Index of the next free stimulus (log 4). -/
  freeIdx : Nat
deriving DecidableEq, Repr

/-- The device state `D_0` (R40; all but `st` are the spec's own choice, D14; log 6). -/
def Device.reset : Device where
  st := .idle
  cur := false
  prev := false
  idx := .low0
  low0 := 0
  high0 := 0
  low1 := 0
  hold := 0

/-- The decoder state `S_0` of a fresh instance (R40; log 6). -/
def Decoder.reset : Decoder where
  phase := .idle
  pending := []
  done := []

/-- The machine right after reset (R40, R230, R231) in the reference configuration, with nothing emitted
and no stimulus pending (log 2, log 6, log 7). -/
def State.reset : State where
  cfg := Config.ref
  dev := Device.reset
  tc := { count := 0 }
  dec := Decoder.reset
  ports := { lineLevel := false, trigger := false }
  out := { lineOverrideEnable := false, burst := [], tcValue := 0, encoded := [] }
  stream := []
  channel := []
  events := []
  tick := 0
  stimulus := []
  freeIdx := 0

end Sys2Proof.Machine
end

