-- ==== Sys2Proof/Machine/Flags.lean ====
section
/-! DEFINITION. The condition signals of the device, functions of the registers at the tick, never of the
input wire and kept nowhere (10_state.md R29, 42_edge_detector.md R122), and the override output
(20_memory.md R53). -/

namespace Sys2Proof.Machine.Device

/-- `level_eq = (cur = prev)` (R122). -/
def levelEq (d : Device) : Bool := d.cur == d.prev

/-- `edge = (cur != prev)` (R122). -/
def edge (d : Device) : Bool := d.cur != d.prev

/-- `fall = (prev = 1 and cur = 0)`, a falling edge (R122). -/
def fall (d : Device) : Bool := d.prev && !d.cur

/-- `rise = (prev = 0 and cur = 1)` (R122). -/
def rise (d : Device) : Bool := !d.prev && d.cur

/-- `line_high = (cur = 1)` (R122). -/
def lineHigh (d : Device) : Bool := d.cur

/-- `last_slot = (idx = 2)` (R29). -/
def lastSlot (d : Device) : Bool := d.idx == .low1

/-- `hold_done = (hold <= 1)` (R29). -/
def holdDone (d : Device) : Bool := decide (d.hold ≤ 1)

/-- `line_override_enable`: 1 exactly when `st = Holding` (R53). -/
def lineOverride (d : Device) : Bool := d.st == .holding

end Sys2Proof.Machine.Device
end

