-- ==== Sys2Proof/Machine/Operands.lean ====
section
/-! DEFINITION. The operand forms: a value to its digits and back (30_encoding.md R79, 41 R111, 46 R186),
the slot that `idx` selects (10_state.md R24, R25), and the selector codes of the state registers (30 R85,
R86, R87). -/

namespace Sys2Proof.Machine

/-- The digits of `v`, at most `fuel + 1` of them, least significant first. -/
def digitsUpTo : Nat → Nat → List Nibble
  | 0, v => [BitVec.ofNat 4 v]
  | fuel + 1, v =>
    if v < 16 then [BitVec.ofNat 4 v] else BitVec.ofNat 4 v :: digitsUpTo fuel (v / 16)

/-- `digits(v)`: the base-16 digits of a natural number, least significant first, without leading zeros and
never none (R79, R111). `v` steps are more than it ever takes. -/
def digits (v : Nat) : List Nibble := digitsUpTo v v

/-- `ndigits(v)` (R79, R112). -/
def ndigits (v : Nat) : Nat := (digits v).length

/-- The sum `p_0 + 16 p_1 + 256 p_2 + ...` of a digit list (R186). -/
def digitSum : List Nibble → Nat
  | [] => 0
  | n :: p => n.toNat + 16 * digitSum p

/-- `value(p)`: the digit sum modulo `2^32` (R79, R186). -/
def value (p : List Nibble) : U32 := BitVec.ofNat 32 (digitSum p)

/-- The numeric code of the measurement index (R86). -/
def MeasIdx.code : MeasIdx → Nat
  | .low0 => 0
  | .high0 => 1
  | .low1 => 2

/-- `idx + 1` where `advance` uses it, that is for 0 and 1; 2 stays 2 (R24, R133). -/
def MeasIdx.next : MeasIdx → MeasIdx
  | .low0 => .high0
  | .high0 => .low1
  | .low1 => .low1

/-- `meas[i]` (R25). -/
def Device.meas (d : Device) : MeasIdx → Nat
  | .low0 => d.low0
  | .high0 => d.high0
  | .low1 => d.low1

/-- `meas[i] <- v` (R25). -/
def Device.setMeas (d : Device) : MeasIdx → Nat → Device
  | .low0, v => { d with low0 := v }
  | .high0, v => { d with high0 := v }
  | .low1, v => { d with low1 := v }

/-- The code of the FSM state (R85; the spec's own, D16). -/
def FsmState.code : FsmState → BitVec 3
  | .idle => 0b000#3
  | .trainWait => 0b001#3
  | .trainCount => 0b010#3
  | .stretchWait => 0b011#3
  | .holding => 0b100#3
  | .holdingDone => 0b101#3
  | .abort => 0b110#3

/-- The code of the decoder phase (R87; the spec's own, D16). -/
def Phase.code : Phase → BitVec 2
  | .idle => 0b00#2
  | .training => 0b01#2
  | .stretching => 0b10#2

end Sys2Proof.Machine
end

