-- ==== Sys2Proof/Machine/Ops.lean ====
section
/-! DEFINITION. The shared operations: saturating arithmetic, the accumulator's and the timer's
micro-operations, the encoder functions, abort entry and return, the commit of a tick, the decoder's step
and its commit, and the TickCounter's step. -/

namespace Sys2Proof.Machine

/-! ### Arithmetic -/

/-- `sat_inc(v, m) = if v < m then v + 1 else v` (R16, R101). -/
def satInc (v m : Nat) : Nat := if v < m then v + 1 else v

/-- `sat_dec(v) = if v > 0 then v - 1 else 0` (R16). -/
def satDec (v : Nat) : Nat := if v > 0 then v - 1 else 0

/-- `hold_duration(a, b) = max(a + b - 2, 0)` (R141): natural subtraction stops at zero. -/
def holdDuration (a b : Nat) : Nat := a + b - 2

/-! ### The encoder (41_telemetry_encoder.md) -/

/-- `encode_measurement(value) = digits(value) ++ [MEASURED]` (R110). -/
def encodeMeasurement (c : Config) (v : Nat) : List Byte := (digits v).map nibbleByte ++ [c.measured]

/-- `encode_end_of_training() = [MEASURED]` (R113). -/
def encodeEndOfTraining (c : Config) : List Byte := [c.measured]

/-- The pseudo-operation `encode(m)` of a 3-tuple (R94). -/
def encodeTuple (c : Config) (m0 m1 m2 : Nat) : List Byte :=
  encodeMeasurement c m0 ++ encodeMeasurement c m1 ++ encodeMeasurement c m2 ++ encodeEndOfTraining c

/-! ### The device's micro-operations (42, 43, 44) -/

/-- `load_all` (R131). -/
def Device.loadAll (d : Device) : Device := { d with idx := .low0, low0 := 1, high0 := 1, low1 := 1 }

/-- `count`: `meas[idx] <- sat_inc(meas[idx], TICK_MAX)` (R132). -/
def Device.countSlot (d : Device) (c : Config) : Device := d.setMeas d.idx (satInc (d.meas d.idx) c.tickMax)

/-- `advance`: `idx <- idx + 1; meas[idx + 1] <- 1`, for `idx` 0 and 1 (R133). -/
def Device.advance (d : Device) : Device := { d.setMeas d.idx.next 1 with idx := d.idx.next }

/-- `finalize`: the value of the current measurement as it stands at the edge tick (R134). -/
def Device.finalized (d : Device) : Nat := d.meas d.idx

/-- `load_hold`: `hold <- hold_duration(meas[0], meas[1])` (R142). -/
def Device.loadHold (d : Device) : Device := { d with hold := holdDuration d.low0 d.high0 }

/-- `count_down` (R143): at `hold <= 1` clear and leave `Holding`, else decrement and stay. -/
def Device.countDown (d : Device) : Device :=
  if d.holdDone then { d with hold := 0, st := .holdingDone } else { d with hold := d.hold - 1, st := .holding }

/-- The latch updates of every tick: `cur <- line_level`, `prev <- cur`, where `old` is the snapshot
(R120, R121). -/
def Device.latch (d : Device) (old : Device) (lineLevel : Bool) : Device :=
  { d with cur := lineLevel, prev := old.cur }

/-! ### Taking the trigger in an abortable state, and the return (60_exceptions.md) -/

/-- Abort entry, the hardware's trap entry: `st <- Abort` and nothing else; nothing is saved, nothing is
emitted (R155, R207). -/
def Device.abortEntry (d : Device) : Device × List Byte := ({ d with st := .abort }, [])

/-- The return from `Abort`: emit `FINISH`, `st <- Idle`, unconditionally (R157, R208). -/
def Device.abortReturn (d : Device) (c : Config) : Device × List Byte := ({ d with st := .idle }, [c.finish])

/-- The abort clause common to the five abortable states: a press has priority over the state's own action,
which it suppresses whole (R155, R206). -/
def Device.unlessPressed (d : Device) (trigger : Bool) (own : Device × List Byte) : Device × List Byte :=
  if trigger then d.abortEntry else own

/-! ### The commit of a tick (45 R159) -/

/-- Commit one tick: the new registers of the state's rule with the latch updates, the override as a
function of the state at the tick (R53), and the burst appended whole to the stream (R55, R60). -/
def State.commitTick (s : State) (r : Device × List Byte) : State :=
  { s with
    dev := r.1.latch s.dev s.ports.lineLevel
    out := { s.out with lineOverrideEnable := s.dev.lineOverride, burst := r.2 }
    stream := s.stream ++ r.2
    channel := s.channel ++ r.2
    tick := s.tick + 1 }

/-! ### The decoder (46_telemetry_decoder.md) -/

/-- R181: clear both accumulators, `StartTraining`, enter `Training`. -/
def Decoder.startTraining (_ : Decoder) : Decoder × List Event :=
  ({ phase := .training, pending := [], done := [] }, [.startTraining])

/-- R182, R189, R191: report the byte with the row's phase; nothing changes. -/
def Decoder.reportUnhandled (d : Decoder) (ph : Phase) (b : Byte) : Decoder × List Event :=
  (d, [.unhandled ph b])

/-- R183: append the digit; no event. -/
def Decoder.appendNibble (d : Decoder) (n : Nibble) : Decoder × List Event :=
  ({ d with pending := d.pending ++ [n] }, [])

/-- R184: complete a group; no event. -/
def Decoder.completeGroup (d : Decoder) : Decoder × List Event :=
  ({ d with done := d.done ++ [value d.pending], pending := [] }, [])

/-- R185: end of training, the one operation with two events. -/
def Decoder.endTraining (d : Decoder) : Decoder × List Event :=
  ({ d with phase := .stretching }, [.finishTraining d.done, .startStretching])

/-- R187: `FINISH` in `Training`: `FinishStretching` (the source's own quirk), everything discarded. -/
def Decoder.abortTraining (_ : Decoder) : Decoder × List Event :=
  ({ phase := .idle, pending := [], done := [] }, [.finishStretching])

/-- R190: `FINISH` in `Stretching`. -/
def Decoder.endStretching (d : Decoder) : Decoder × List Event :=
  ({ d with phase := .idle }, [.finishStretching])

/-- `dec_step(CFG, S, b)`: one step of the decoder on one byte, by phase and class of the byte (R180,
R192). -/
def decStep (c : Config) (d : Decoder) (b : Byte) : Decoder × List Event :=
  match d.phase, classify c b with
  | .idle, .start => d.startTraining
  | .idle, _ => d.reportUnhandled .idle b
  | .training, .nibble n => d.appendNibble n
  | .training, .measured => if d.pending.isEmpty then d.endTraining else d.completeGroup
  | .training, .finish => d.abortTraining
  | .training, _ => d.reportUnhandled .training b
  | .stretching, .finish => d.endStretching
  | .stretching, _ => d.reportUnhandled .stretching b

/-- The decoder run over a byte list from a given state: final state and all events (R188). -/
def decodeFrom (c : Config) (d : Decoder) : List Byte → Decoder × List Event
  | [] => (d, [])
  | b :: bs =>
    let r := decStep c d b
    let q := decodeFrom c r.1 bs
    (q.1, r.2 ++ q.2)

/-- `decode(CFG, bytes)` of a fresh decoder instance (R94, R188). -/
def decodeStream (c : Config) (bs : List Byte) : List Event := (decodeFrom c Decoder.reset bs).2

/-- Commit one step of the decoder: its new state, and its events appended (R60, R180). -/
def State.commitByte (s : State) (r : Decoder × List Event) : State :=
  { s with dec := r.1, events := s.events ++ r.2 }

/-- A fresh decoder instance in the place of the old one (R188, R215; log 19). -/
def State.renewDecoder (s : State) : State := { s with dec := Decoder.reset, events := [] }

/-- The decoder receives the byte `b`. -/
def State.receive (s : State) (b : Byte) : State := s.commitByte (decStep s.cfg s.dec b)

/-! ### The stand-alone TickCounter (40_tick_counter.md) -/

/-- One time step under the command pair `{rst, en}` (R104). -/
def TickCounter.command (t : TickCounter) (max : Nat) (rst en : Bool) : TickCounter :=
  { count := if rst then 0 else if en then satInc t.count max else t.count }

/-- `value()`: the committed count (R103). -/
def TickCounter.value (t : TickCounter) : Nat := t.count

/-- One time step of the machine's TickCounter. -/
def State.tcStep (s : State) (rst en : Bool) : State := { s with tc := s.tc.command s.cfg.tcMax rst en }

/-- Read the machine's TickCounter (R103). -/
def State.readCounter (s : State) : State := { s with out := { s.out with tcValue := s.tc.value } }

/-- Give back the result of an encoder call (R110, R113, R114). -/
def State.returnEncoded (s : State) (bytes : List Byte) : State :=
  { s with out := { s.out with encoded := bytes } }

end Sys2Proof.Machine
end

