-- ==== Sys2Proof/Machine/Decoder.lean ====
section
/-! DEFINITION. The nine decoder operations (46_telemetry_decoder.md R181 to R191). -/

namespace Sys2Proof.Machine

/-- `DEC.IDLE.START` (R181). -/
def execDecIdleStart (s : State) : Host.Outcome State Fault Refusal :=
  .next (s.commitByte s.dec.startTraining)

/-- `DEC.IDLE.OTHER` (R182). -/
def execDecIdleOther (b : Byte) (s : State) : Host.Outcome State Fault Refusal :=
  .next (s.commitByte (s.dec.reportUnhandled .idle b))

/-- `DEC.TRAINING.NIBBLE` (R183). -/
def execDecTrainingNibble (n : Nibble) (s : State) : Host.Outcome State Fault Refusal :=
  .next (s.commitByte (s.dec.appendNibble n))

/-- `DEC.TRAINING.MEASURED.GROUP` (R184). -/
def execDecTrainingMeasuredGroup (s : State) : Host.Outcome State Fault Refusal :=
  .next (s.commitByte s.dec.completeGroup)

/-- `DEC.TRAINING.MEASURED.BARE` (R185). -/
def execDecTrainingMeasuredBare (s : State) : Host.Outcome State Fault Refusal :=
  .next (s.commitByte s.dec.endTraining)

/-- `DEC.TRAINING.FINISH` (R187). -/
def execDecTrainingFinish (s : State) : Host.Outcome State Fault Refusal :=
  .next (s.commitByte s.dec.abortTraining)

/-- `DEC.TRAINING.OTHER` (R189). -/
def execDecTrainingOther (b : Byte) (s : State) : Host.Outcome State Fault Refusal :=
  .next (s.commitByte (s.dec.reportUnhandled .training b))

/-- `DEC.STRETCHING.FINISH` (R190). -/
def execDecStretchingFinish (s : State) : Host.Outcome State Fault Refusal :=
  .next (s.commitByte s.dec.endStretching)

/-- `DEC.STRETCHING.OTHER` (R191). -/
def execDecStretchingOther (b : Byte) (s : State) : Host.Outcome State Fault Refusal :=
  .next (s.commitByte (s.dec.reportUnhandled .stretching b))

end Sys2Proof.Machine
end

