-- ==== Sys2Proof/Machine/Encoder.lean ====
section
/-! DEFINITION. The two encoder functions called on their own (41_telemetry_encoder.md): they have no state and
put nothing on the stream (R114); the result is given back (log 14, log 18). -/

namespace Sys2Proof.Machine

/-- `ENC.MEASUREMENT` (R110). -/
def execEncMeasurement (v : U32) (s : State) : Host.Outcome State Fault Refusal :=
  .next (s.returnEncoded (encodeMeasurement s.cfg v.toNat))

/-- `ENC.END_OF_TRAINING` (R113). -/
def execEncEndOfTraining (s : State) : Host.Outcome State Fault Refusal :=
  .next (s.returnEncoded (encodeEndOfTraining s.cfg))

end Sys2Proof.Machine
end

