-- ==== Sys2Proof/Machine/Fsm.lean ====
section
/-! DEFINITION. The per-tick rules of the seven FSM states (45_observer_fsm.md R150 to R157). Each is one
device tick: the rule on the snapshot, the latch updates, the two outputs, committed together (R159). -/

namespace Sys2Proof.Machine

/-- `FSM.IDLE` (R150). -/
def execFsmIdle (s : State) : Host.Outcome State Fault Refusal :=
  .next (s.commitTick
    (if s.ports.trigger then ({ s.dev with st := .trainWait }, [s.cfg.start])
     else ({ s.dev with st := .idle }, [])))

/-- `FSM.TRAINWAIT` (R151). -/
def execFsmTrainWait (s : State) : Host.Outcome State Fault Refusal :=
  .next (s.commitTick (s.dev.unlessPressed s.ports.trigger
    (if s.dev.fall then ({ s.dev.loadAll with st := .trainCount }, [])
     else ({ s.dev with st := .trainWait }, []))))

/-- `FSM.TRAINCOUNT` (R152). -/
def execFsmTrainCount (s : State) : Host.Outcome State Fault Refusal :=
  .next (s.commitTick (s.dev.unlessPressed s.ports.trigger
    (if s.dev.levelEq then ({ s.dev.countSlot s.cfg with st := .trainCount }, [])
     else if s.dev.lastSlot then
       ({ s.dev with st := .stretchWait }, encodeMeasurement s.cfg s.dev.low1 ++ encodeEndOfTraining s.cfg)
     else ({ s.dev.advance with st := .trainCount }, encodeMeasurement s.cfg s.dev.finalized))))

/-- `FSM.STRETCHWAIT` (R153). -/
def execFsmStretchWait (s : State) : Host.Outcome State Fault Refusal :=
  .next (s.commitTick (s.dev.unlessPressed s.ports.trigger
    (if s.dev.fall then ({ s.dev.loadHold with st := .holding }, [])
     else ({ s.dev with st := .stretchWait }, []))))

/-- `FSM.HOLDING` (R154). -/
def execFsmHolding (s : State) : Host.Outcome State Fault Refusal :=
  .next (s.commitTick (s.dev.unlessPressed s.ports.trigger (s.dev.countDown, [])))

/-- `FSM.HOLDINGDONE` (R156). -/
def execFsmHoldingDone (s : State) : Host.Outcome State Fault Refusal :=
  .next (s.commitTick (s.dev.unlessPressed s.ports.trigger
    (if s.dev.lineHigh then ({ s.dev with st := .stretchWait }, [])
     else ({ s.dev with st := .holdingDone }, []))))

/-- `FSM.ABORT`: the trigger is not read (R157). -/
def execFsmAbort (s : State) : Host.Outcome State Fault Refusal :=
  .next (s.commitTick (s.dev.abortReturn s.cfg))

end Sys2Proof.Machine
end

