-- ==== Sys2Proof/Machine/TickCounter.lean ====
section
/-! DEFINITION. The four TickCounter operations (40_tick_counter.md). -/

namespace Sys2Proof.Machine

/-- `TC.NOP`: `count <- count` (R105). -/
def execTcNop (s : State) : Host.Outcome State Fault Refusal := .next (s.tcStep false false)

/-- `TC.TICK`: `count <- sat_inc(count, max)` (R101). -/
def execTcTick (s : State) : Host.Outcome State Fault Refusal := .next (s.tcStep false true)

/-- `TC.RESET`: `count <- 0`, whatever `en` is (R102, R104). -/
def execTcReset (en : Bool) (s : State) : Host.Outcome State Fault Refusal := .next (s.tcStep true en)

/-- `TC.VALUE`: `value() = count`; the read changes nothing but the output it is read at (R103). -/
def execTcValue (s : State) : Host.Outcome State Fault Refusal := .next s.readCounter

end Sys2Proof.Machine
end

