-- ==== Sys2Proof/Machine/Wire.lean ====
section
/-! DEFINITION. The four wire symbol classes as what the decoder does on receiving them (30_encoding.md R70 to
R72, 46_telemetry_decoder.md R180, R192; R2 calls the wire byte the decoder's opcode; log 10). -/

namespace Sys2Proof.Machine

/-- `NIBBLE` (R71): the decoder receives the digit `n`. -/
def execWireNibble (n : Nibble) (s : State) : Host.Outcome State Fault Refusal :=
  .next (s.receive (nibbleByte n))

/-- `START` (R72): the decoder receives the marker `START`. -/
def execWireStart (s : State) : Host.Outcome State Fault Refusal := .next (s.receive s.cfg.start)

/-- `MEASURED` (R72): the decoder receives the marker `MEASURED`. -/
def execWireMeasured (s : State) : Host.Outcome State Fault Refusal := .next (s.receive s.cfg.measured)

/-- `FINISH` (R72): the decoder receives the marker `FINISH`. -/
def execWireFinish (s : State) : Host.Outcome State Fault Refusal := .next (s.receive s.cfg.finish)

end Sys2Proof.Machine
end

