-- ==== Sys2Proof/Machine/Dispatch.lean ====
section
/-! DEFINITION. The meaning of every operation, one arm per constructor of Instr. -/

namespace Sys2Proof.Machine

def exec (i : Instr) (s : State) : Host.Outcome State Fault Refusal :=
  match i with
  | .tcNop => Sys2Proof.Machine.execTcNop s
  | .tcTick => Sys2Proof.Machine.execTcTick s
  | .tcReset en => Sys2Proof.Machine.execTcReset en s
  | .tcValue => Sys2Proof.Machine.execTcValue s
  | .encMeasurement value => Sys2Proof.Machine.execEncMeasurement value s
  | .encEndOfTraining => Sys2Proof.Machine.execEncEndOfTraining s
  | .fsmIdle => Sys2Proof.Machine.execFsmIdle s
  | .fsmTrainWait => Sys2Proof.Machine.execFsmTrainWait s
  | .fsmTrainCount => Sys2Proof.Machine.execFsmTrainCount s
  | .fsmStretchWait => Sys2Proof.Machine.execFsmStretchWait s
  | .fsmHolding => Sys2Proof.Machine.execFsmHolding s
  | .fsmHoldingDone => Sys2Proof.Machine.execFsmHoldingDone s
  | .fsmAbort => Sys2Proof.Machine.execFsmAbort s
  | .decIdleStart => Sys2Proof.Machine.execDecIdleStart s
  | .decIdleOther b => Sys2Proof.Machine.execDecIdleOther b s
  | .decTrainingNibble n => Sys2Proof.Machine.execDecTrainingNibble n s
  | .decTrainingMeasuredGroup => Sys2Proof.Machine.execDecTrainingMeasuredGroup s
  | .decTrainingMeasuredBare => Sys2Proof.Machine.execDecTrainingMeasuredBare s
  | .decTrainingFinish => Sys2Proof.Machine.execDecTrainingFinish s
  | .decTrainingOther b => Sys2Proof.Machine.execDecTrainingOther b s
  | .decStretchingFinish => Sys2Proof.Machine.execDecStretchingFinish s
  | .decStretchingOther b => Sys2Proof.Machine.execDecStretchingOther b s
  | .wireNibble n => Sys2Proof.Machine.execWireNibble n s
  | .wireStart => Sys2Proof.Machine.execWireStart s
  | .wireMeasured => Sys2Proof.Machine.execWireMeasured s
  | .wireFinish => Sys2Proof.Machine.execWireFinish s

end Sys2Proof.Machine
end

