-- ==== Sys2Proof/Machine/Fetch.lean ====
section
/-! DEFINITION. What a step presents to the decoder of operations: the next stimulus, and the selector word
it selects by the state registers (00_scope.md R2, 30_encoding.md R87, R95, 45 R159, 46 R180); and how a
table row's operation is placed where the next step runs it. -/

namespace Sys2Proof.Machine

/-- The stimulus the next step takes: the oldest pending one, or a free one (log 3, log 4). -/
def State.nextStimulus (s : State) : Stimulus :=
  match s.stimulus with
  | e :: _ => e
  | [] => Config.freeStimulus s.freeIdx

/-- The state once that stimulus is taken. -/
def State.dropStimulus (s : State) : State :=
  match s.stimulus with
  | _ :: rest => { s with stimulus := rest }
  | [] => { s with freeIdx := s.freeIdx + 1 }

/-- The selector by which the decoder's phase and a byte select a `dec_byte` row (R87, R180). -/
def State.decByteSelector (s : State) (b : Byte) : Selector :=
  .decByte (decByteWord s.dec.phase.code b) s.dec.pending.isEmpty

/-- The selector a byte presented from outside selects: a wire symbol, or, for a byte of class `OTHER`,
which has no symbol (R78), the `dec_byte` row of the phase. -/
def State.wireSelector (s : State) (b : Byte) : Selector :=
  match classify s.cfg b with
  | .other _ => s.decByteSelector b
  | _ => .wireByte b

/-- Sample the two inputs of a tick (R51, R52). -/
def State.sample (s : State) (lineLevel trigger : Bool) : State :=
  { s with ports := { lineLevel := lineLevel, trigger := trigger } }

/-- Leave `rest` in the channel: the byte before it has been taken (R56). -/
def State.leaveInChannel (s : State) (rest : List Byte) : State := { s with channel := rest }

/-- What a step presents: a selector word (none where nothing is selected) and the state to run it in. -/
structure Fetched where
  sel : Option Selector
  st : State
deriving DecidableEq, Repr

/-- Present one stimulus in a state from which it has been taken. A device tick samples the ports and
selects by `st` (R159); a delivery takes the oldest byte of the channel, and waits where there is none
(R56, R193; log 13); a fresh decoder instance starts from `S_0` (R188; log 19). -/
def State.present (s : State) : Stimulus → Fetched
  | .tick l t => { sel := some (.fsmState s.dev.st.code), st := s.sample l t }
  | .deliver =>
    match s.channel with
    | [] => { sel := none, st := s }
    | b :: rest => { sel := some (s.decByteSelector b), st := s.leaveInChannel rest }
  | .wireByte b => { sel := some (s.wireSelector b), st := s }
  | .tcCommand rst en => { sel := some (.tcCmd (BitVec.ofBool rst ++ BitVec.ofBool en)), st := s }
  | .tcRead => { sel := some .tcRead, st := s }
  | .encodeMeasurement v => { sel := some (.encFn 0b0#1 v), st := s }
  | .encodeEndOfTraining => { sel := some (.encFn 0b1#1 0#32), st := s }
  | .freshDecoder => { sel := none, st := s.renewDecoder }

/-- What the next step presents. -/
def State.fetch (s : State) : Fetched := s.dropStimulus.present s.nextStimulus

/-- The state `s` with a stimulus put in front. -/
def State.push (s : State) (e : Stimulus) : State := { s with stimulus := e :: s.stimulus }

/-- The state `s` with the FSM in `st` and a tick put in front, its inputs those at the ports. -/
def State.pushTick (s : State) (st : FsmState) : State :=
  { s with dev := { s.dev with st := st } }.push (.tick s.ports.lineLevel s.ports.trigger)

/-- The state `s` with the decoder in `phase`, the byte `b` next in the channel and its delivery put in
front. -/
def State.pushByte (s : State) (phase : Phase) (b : Byte) : State :=
  { s with dec := { s.dec with phase := phase }, channel := b :: s.channel }.push .deliver

/-- The state `s` arranged so that the very next step presents exactly the operation `i` (log 16). -/
def State.placing (s : State) : Instr → State
  | .tcNop => s.push (.tcCommand false false)
  | .tcTick => s.push (.tcCommand false true)
  | .tcReset en => s.push (.tcCommand true en)
  | .tcValue => s.push .tcRead
  | .encMeasurement v => s.push (.encodeMeasurement v)
  | .encEndOfTraining => s.push .encodeEndOfTraining
  | .fsmIdle => s.pushTick .idle
  | .fsmTrainWait => s.pushTick .trainWait
  | .fsmTrainCount => s.pushTick .trainCount
  | .fsmStretchWait => s.pushTick .stretchWait
  | .fsmHolding => s.pushTick .holding
  | .fsmHoldingDone => s.pushTick .holdingDone
  | .fsmAbort => s.pushTick .abort
  | .decIdleStart => s.pushByte .idle s.cfg.start
  | .decIdleOther b => s.pushByte .idle b
  | .decTrainingNibble n => s.pushByte .training (nibbleByte n)
  | .decTrainingMeasuredGroup =>
    { s with dec := { s.dec with pending := if s.dec.pending.isEmpty then [0#4] else s.dec.pending } }.pushByte
      .training s.cfg.measured
  | .decTrainingMeasuredBare =>
    { s with dec := { s.dec with pending := [] } }.pushByte .training s.cfg.measured
  | .decTrainingFinish => s.pushByte .training s.cfg.finish
  | .decTrainingOther b => s.pushByte .training b
  | .decStretchingFinish => s.pushByte .stretching s.cfg.finish
  | .decStretchingOther b => s.pushByte .stretching b
  | .wireNibble n => s.push (.wireByte (nibbleByte n))
  | .wireStart => s.push (.wireByte s.cfg.start)
  | .wireMeasured => s.push (.wireByte s.cfg.measured)
  | .wireFinish => s.push (.wireByte s.cfg.finish)

end Sys2Proof.Machine
end

