-- ==== Sys2Proof/Machine/Step.lean ====
section
/-! DEFINITION. One step of the machine: take the next stimulus, present its selector word, decode it, run
the operation (R62, R159, R180). -/

namespace Sys2Proof.Machine

/-- One step. Where nothing is selected (a decoder that waits, a fresh decoder instance) the presented state
is the next state. -/
def step (s : State) : Host.Outcome State Fault Refusal :=
  match s.fetch.sel with
  | none => .next s.fetch.st
  | some sel =>
    match decode s.cfg sel with
    | .ok i => exec i s.fetch.st
    | .error e => .fault (.undecodable e)

/-- `s` with the operation of a table word placed where `step` runs it next; unchanged where the word names
no operation. -/
def State.withFetchWord (s : State) (nbits w : Nat) : State :=
  match decodeTableWord nbits w with
  | some i => s.placing i
  | none => s

end Sys2Proof.Machine
end

