-- ==== Sys2Proof/Safety.lean ====
section
/-! DEFINITION. The terms the claims use: runs, the invariants of the reachable states, the correspondence of
stream, channel and decoder, equality up to stale registers, and independent transcriptions of the spec's
two reference tables. -/

namespace Sys2Proof.Machine

/-! ### Runs -/

/-- `n` steps from `s`. -/
abbrev runs (n : Nat) (s : State) : Host.Outcome State Fault Refusal := Host.Core.run Sys2Proof.core n s

/-- Ticks with the given line levels and no press (R93). -/
def quietTicks (ls : List Bool) : List Stimulus := ls.map (Stimulus.tick · false)

/-- Ticks with the given line levels and the trigger held (R162). -/
def pressedTicks (ls : List Bool) : List Stimulus := ls.map (Stimulus.tick · true)

/-! ### Classes of FSM states -/

/-- The five states a press aborts (R155). -/
def FsmState.abortable : FsmState → Bool
  | .trainWait | .trainCount | .stretchWait | .holding | .holdingDone => true
  | .idle | .abort => false

/-- The four states in which the accumulators are live (R37). -/
def FsmState.measuring : FsmState → Bool
  | .trainCount | .stretchWait | .holding | .holdingDone => true
  | .idle | .trainWait | .abort => false

/-- `i mod 2` of a measurement index, as a level (R38, R86). -/
def MeasIdx.odd : MeasIdx → Bool
  | .low0 => false
  | .high0 => true
  | .low1 => false

/-! ### The next state of one tick, register by register -/

/-- The state after a tick that leaves the device at `d` but for the latches, with override `ov` and burst
`tx` (R159): nothing else of the machine changes. -/
def State.ticked (s : State) (d : Device) (ov : Bool) (tx : List Byte) : State :=
  { s with
    dev := { d with cur := s.ports.lineLevel, prev := s.dev.cur }
    out := { s.out with lineOverrideEnable := ov, burst := tx }
    stream := s.stream ++ tx
    channel := s.channel ++ tx
    tick := s.tick + 1 }

/-! ### Transcriptions of the spec's reference tables -/

/-- The reference listing of the device step (45_observer_fsm.md section 3): next device, override,
burst. -/
def referenceTick (c : Config) (d : Device) (lineLevel trigger : Bool) : Device × Bool × List Byte :=
  let ovr := decide (d.st = .holding)
  let fall := decide (d.prev = true ∧ d.cur = false)
  let d' := { d with cur := lineLevel, prev := d.cur }
  match d.st with
  | .idle => if trigger then ({ d' with st := .trainWait }, ovr, [c.start]) else (d', ovr, [])
  | .abort => ({ d' with st := .idle }, ovr, [c.finish])
  | st =>
    if trigger then ({ d' with st := .abort }, ovr, [])
    else match st with
      | .trainWait =>
        if fall then ({ d' with idx := .low0, low0 := 1, high0 := 1, low1 := 1, st := .trainCount }, ovr, [])
        else (d', ovr, [])
      | .trainCount =>
        if d.cur = d.prev then
          match d.idx with
          | .low0 => ({ d' with low0 := if d.low0 < c.tickMax then d.low0 + 1 else d.low0 }, ovr, [])
          | .high0 => ({ d' with high0 := if d.high0 < c.tickMax then d.high0 + 1 else d.high0 }, ovr, [])
          | .low1 => ({ d' with low1 := if d.low1 < c.tickMax then d.low1 + 1 else d.low1 }, ovr, [])
        else match d.idx with
          | .low0 => ({ d' with idx := .high0, high0 := 1 }, ovr, (digits d.low0).map nibbleByte ++ [c.measured])
          | .high0 => ({ d' with idx := .low1, low1 := 1 }, ovr, (digits d.high0).map nibbleByte ++ [c.measured])
          | .low1 =>
            ({ d' with st := .stretchWait }, ovr, (digits d.low1).map nibbleByte ++ [c.measured, c.measured])
      | .stretchWait =>
        if fall then ({ d' with hold := max (d.low0 + d.high0) 2 - 2, st := .holding }, ovr, []) else (d', ovr, [])
      | .holding =>
        if d.hold ≤ 1 then ({ d' with hold := 0, st := .holdingDone }, ovr, [])
        else ({ d' with hold := d.hold - 1 }, ovr, [])
      | .holdingDone => if d.cur = true then ({ d' with st := .stretchWait }, ovr, []) else (d', ovr, [])
      | .idle | .abort => (d', ovr, [])

/-- The decoder's transition table (46_telemetry_decoder.md R192): next state and events. -/
def referenceByte (c : Config) (d : Decoder) (b : Byte) : Decoder × List Event :=
  match d.phase with
  | .idle =>
    if b = c.start then ({ phase := .training, pending := [], done := [] }, [.startTraining])
    else (d, [.unhandled .idle b])
  | .training =>
    if b.toNat ≤ 0x0F then ({ d with pending := d.pending ++ [BitVec.ofNat 4 b.toNat] }, [])
    else if b = c.measured then
      if d.pending = [] then ({ d with phase := .stretching }, [.finishTraining d.done, .startStretching])
      else ({ d with pending := [], done := d.done ++ [value d.pending] }, [])
    else if b = c.finish then ({ phase := .idle, pending := [], done := [] }, [.finishStretching])
    else (d, [.unhandled .training b])
  | .stretching =>
    if b = c.finish then ({ d with phase := .idle }, [.finishStretching])
    else (d, [.unhandled .stretching b])

/-! ### Invariants -/

/-- The TickCounter never holds more than its maximum (R27, R100). -/
def State.counterInv (s : State) : Prop := s.tc.count ≤ s.cfg.tcMax

/-- The device's invariant: no accumulator exceeds `TICK_MAX` and `hold <= 2 * TICK_MAX - 2` (R7, R39); in
the four measuring states every accumulator is at least 1 (R37); and in `TrainCount` the level being
measured, `prev`, is the parity of `idx` (R38). -/
def Device.inv (c : Config) (d : Device) : Prop :=
  d.low0 ≤ c.tickMax ∧ d.high0 ≤ c.tickMax ∧ d.low1 ≤ c.tickMax ∧ d.hold ≤ 2 * c.tickMax - 2 ∧
  (d.st.measuring = true → 1 ≤ d.low0 ∧ 1 ≤ d.high0 ∧ 1 ≤ d.low1) ∧
  (d.st = .trainCount → d.prev = d.idx.odd)

/-- The event is not `Unhandled`. -/
def Event.expected : Event → Bool
  | .unhandled _ _ => false
  | .startTraining | .finishTraining _ | .startStretching | .finishStretching => true

/-- The measurements of the cycle that `TrainCount` has finalized so far, as the decoder sees them. -/
def Device.finalizedSoFar (d : Device) : List U32 :=
  match d.idx with
  | .low0 => []
  | .high0 => [BitVec.ofNat 32 d.low0]
  | .low1 => [BitVec.ofNat 32 d.low0, BitVec.ofNat 32 d.high0]

/-- All three measurements of the cycle, as the decoder sees them. -/
def Device.measurements (d : Device) : List U32 :=
  [BitVec.ofNat 32 d.low0, BitVec.ofNat 32 d.high0, BitVec.ofNat 32 d.low1]

/-- The stream decodes in step with the device (R77, R195): a decoder that has taken the whole stream has
reported nothing unexpected, is in the phase that goes with `st`, holds exactly the measurements finalized
so far, and in the stretch phase its last report was `FinishTraining` of the three finalized values. -/
def State.telemetryInv (s : State) : Prop :=
  let r := decodeFrom s.cfg Decoder.reset s.stream
  (∀ e ∈ r.2, e.expected = true) ∧
  match s.dev.st with
  | .idle => r.1.phase = .idle
  | .trainWait => r.1 = { phase := .training, pending := [], done := [] }
  | .trainCount => r.1 = { phase := .training, pending := [], done := s.dev.finalizedSoFar }
  | .stretchWait | .holding | .holdingDone =>
    r.1 = { phase := .stretching, pending := [], done := s.dev.measurements } ∧
    ∃ earlier, r.2 = earlier ++ [.finishTraining s.dev.measurements, .startStretching]
  | .abort => r.1.phase ≠ .idle

/-- The decoder has taken, in order and once each, exactly the bytes of the stream that are no longer in the
channel (R56, R188). -/
def State.linkInv (s : State) : Prop :=
  ∃ taken, s.stream = taken ++ s.channel ∧ decodeFrom s.cfg Decoder.reset taken = (s.dec, s.events)

/-! ### Stale registers -/

/-- The two states agree on everything but device registers that are stale in the FSM state they share:
`idx` and the accumulators outside the measuring states, `hold` outside `Holding` (R36). -/
def sameButStale (s t : State) : Prop :=
  { s with dev := t.dev } = t ∧
  s.dev.st = t.dev.st ∧ s.dev.cur = t.dev.cur ∧ s.dev.prev = t.dev.prev ∧
  (s.dev.st.measuring = true →
    s.dev.idx = t.dev.idx ∧ s.dev.low0 = t.dev.low0 ∧ s.dev.high0 = t.dev.high0 ∧ s.dev.low1 = t.dev.low1) ∧
  (s.dev.st = .holding → s.dev.hold = t.dev.hold)

/-! ### The TickCounter's closed form -/

/-- The number of `tick()` commands taken since the last `reset()` taken, or since the start (R106): `(rst,
en)` pairs, a command with `rst` being a reset whatever `en` is (R104). -/
def ticksSinceReset (cmds : List (Bool × Bool)) : Nat :=
  cmds.foldl (fun n cmd => if cmd.1 then 0 else if cmd.2 then n + 1 else n) 0

end Sys2Proof.Machine
end

