-- ==== Sys2Proof/Certificates/Slice0/Obligations.lean ====
section
/-! DEFINITION. The statements for the provers. Each docstring names the rules of spec/ it formalises; where a
statement rests on a choice of the spec's own (a decision D<n>) or of the model (a log entry), it says so. -/

open Sys2Proof Sys2Proof.Machine

/-! ### Reset -/

/-- R40, R230, R231. `Idle` is the source's; the other reset values are the spec's own choice (D14, log 6). -/
def Obligations.ResetStateIsInitialState : Prop :=
  State.reset.dev =
    { st := .idle, cur := false, prev := false, idx := .low0, low0 := 0, high0 := 0, low1 := 0, hold := 0 } ∧
  State.reset.tc.count = 0 ∧
  State.reset.dec = { phase := .idle, pending := [], done := [] } ∧
  State.reset.dev.lineOverride = false ∧ State.reset.out.lineOverrideEnable = false ∧
  State.reset.out.burst = [] ∧ State.reset.stream = [] ∧ State.reset.channel = []

/-- The invariants of the reachable states hold at reset (R37 to R40, R100). -/
def Obligations.ResetMeetsInvariants : Prop :=
  State.reset.counterInv ∧ State.reset.dev.inv State.reset.cfg ∧ State.reset.telemetryInv ∧ State.reset.linkInv

/-! ### Encodings -/

/-- Words written out from the table's encodings decode to their operations (R80, R85, R87, R92, R95; the
codes are the spec's own, D16, D21, and the markers those of `CFG_REF`, D3). The last two clauses are no rule of the
spec: they say how the model reads a bare whole-byte word, which by R95 does not name its format (DESIGN CHOICE,
log 15: an 8-bit 0x06 is read as the FSM state code, though as a `wire_byte` it is a digit). -/
def Obligations.TableWordsDecode : Prop :=
  decode Config.ref (.tcCmd 0b01#2) = .ok .tcTick ∧
  decode Config.ref (.tcCmd 0b11#2) = .ok (.tcReset true) ∧
  decode Config.ref (.encFn 0b0#1 0x1A3#32) = .ok (.encMeasurement 0x1A3#32) ∧
  decode Config.ref (.fsmState 0b100#3) = .ok .fsmHolding ∧
  decode Config.ref (.decByte 0b0011110000#10 true) = .ok .decIdleStart ∧
  decode Config.ref (.decByte 0b0100001010#10 true) = .ok (.decTrainingNibble 0b1010#4) ∧
  decode Config.ref (.decByte 0b0111110001#10 false) = .ok .decTrainingMeasuredGroup ∧
  decode Config.ref (.decByte 0b0111110001#10 true) = .ok .decTrainingMeasuredBare ∧
  decode Config.ref (.decByte 0b1011110010#10 true) = .ok .decStretchingFinish ∧
  decode Config.ref (.wireByte 0b11110001#8) = .ok .wireMeasured ∧
  decodeTableWord 8 0b110 = some .fsmAbort ∧ decodeTableWord 16 0b0111110010 = some .decTrainingFinish

/-- The rows of the operation table, under every configuration and for every operand: each selector word selects
the operation of its row, the "other" rows taking what the named rows before them do not (R80, R85, R87, R92, R95,
R70 to R72, R180). The codes are the spec's own (D16, D21). -/
def Obligations.SelectorRows : Prop :=
  ∀ (c : Config) (pendingEmpty : Bool),
    decode c (.tcCmd 0b00#2) = .ok .tcNop ∧ decode c (.tcCmd 0b01#2) = .ok .tcTick ∧
    decode c (.tcCmd 0b10#2) = .ok (.tcReset false) ∧ decode c (.tcCmd 0b11#2) = .ok (.tcReset true) ∧
    decode c .tcRead = .ok .tcValue ∧
    (∀ v, decode c (.encFn 0b0#1 v) = .ok (.encMeasurement v)) ∧
    (∀ v, decode c (.encFn 0b1#1 v) = .ok .encEndOfTraining) ∧
    decode c (.fsmState 0b000#3) = .ok .fsmIdle ∧ decode c (.fsmState 0b001#3) = .ok .fsmTrainWait ∧
    decode c (.fsmState 0b010#3) = .ok .fsmTrainCount ∧ decode c (.fsmState 0b011#3) = .ok .fsmStretchWait ∧
    decode c (.fsmState 0b100#3) = .ok .fsmHolding ∧ decode c (.fsmState 0b101#3) = .ok .fsmHoldingDone ∧
    decode c (.fsmState 0b110#3) = .ok .fsmAbort ∧
    decode c (.decByte (0b00#2 ++ c.start) pendingEmpty) = .ok .decIdleStart ∧
    (∀ b, b ≠ c.start → decode c (.decByte (0b00#2 ++ b) pendingEmpty) = .ok (.decIdleOther b)) ∧
    (∀ n : Nibble, decode c (.decByte (0b010000#6 ++ n) pendingEmpty) = .ok (.decTrainingNibble n)) ∧
    decode c (.decByte (0b01#2 ++ c.measured) false) = .ok .decTrainingMeasuredGroup ∧
    decode c (.decByte (0b01#2 ++ c.measured) true) = .ok .decTrainingMeasuredBare ∧
    decode c (.decByte (0b01#2 ++ c.finish) pendingEmpty) = .ok .decTrainingFinish ∧
    (∀ b : Byte, 16 ≤ b.toNat → b ≠ c.measured → b ≠ c.finish →
      decode c (.decByte (0b01#2 ++ b) pendingEmpty) = .ok (.decTrainingOther b)) ∧
    decode c (.decByte (0b10#2 ++ c.finish) pendingEmpty) = .ok .decStretchingFinish ∧
    (∀ b, b ≠ c.finish → decode c (.decByte (0b10#2 ++ b) pendingEmpty) = .ok (.decStretchingOther b)) ∧
    (∀ n : Nibble, decode c (.wireByte (0b0000#4 ++ n)) = .ok (.wireNibble n)) ∧
    decode c (.wireByte c.start) = .ok .wireStart ∧ decode c (.wireByte c.measured) = .ok .wireMeasured ∧
    decode c (.wireByte c.finish) = .ok .wireFinish

/-- Every well-formed operation is what the decoder reads from its word, under every configuration (R70 to
R72, R80, R85, R87, R92). -/
def Obligations.DecodeEncodeRoundTrip : Prop :=
  ∀ (c : Config) (i : Instr), i.wellFormed c = true → decode c (encode c i) = .ok i

/-- What the decoder reads is well formed and its word is the word read: no bit of a selector is dropped,
except the operand of `ENC.END_OF_TRAINING`, which has none. The side condition counts for the two `MEASURED`
rows (R80, R85, R87, R92, R95). -/
def Obligations.EncodeDecodeRoundTrip : Prop :=
  ∀ (c : Config) (i : Instr),
    (∀ w, decode c (.tcCmd w) = .ok i → i.wellFormed c = true ∧ encode c i = .tcCmd w) ∧
    (∀ w v, decode c (.encFn w v) = .ok i →
      i.wellFormed c = true ∧ ∃ v', encode c i = .encFn w v' ∧ (w = 0#1 → v' = v)) ∧
    (∀ w, decode c (.fsmState w) = .ok i → i.wellFormed c = true ∧ encode c i = .fsmState w) ∧
    (∀ w pe, decode c (.decByte w pe) = .ok i →
      i.wellFormed c = true ∧ ∃ pe', encode c i = .decByte w pe' ∧
        (i = .decTrainingMeasuredGroup ∨ i = .decTrainingMeasuredBare → pe' = pe)) ∧
    (∀ b, decode c (.wireByte b) = .ok i → i.wellFormed c = true ∧ encode c i = .wireByte b)

/-- The words that are no operation's are rejected by name and no others: state code 7 (R85), phase code 3
(R87), a wire byte of class `OTHER` (R70, R78). The codes are the spec's own (D16). -/
def Obligations.ReservedWordsRejected : Prop :=
  ∀ (c : Config) (e : DecodeError),
    (∀ w, decode c (.tcCmd w) ≠ .error e) ∧ decode c .tcRead ≠ .error e ∧
    (∀ w v, decode c (.encFn w v) ≠ .error e) ∧
    (∀ w, decode c (.fsmState w) = .error e ↔ w = 7#3 ∧ e = .unusedStateCode) ∧
    (∀ w pe, decode c (.decByte w pe) = .error e ↔ 768 ≤ w.toNat ∧ e = .unusedPhaseCode) ∧
    (∀ b, decode c (.wireByte b) = .error e ↔
      (16 ≤ b.toNat ∧ b ≠ c.start ∧ b ≠ c.measured ∧ b ≠ c.finish) ∧ e = .reservedWireByte b)

/-- R61: 16 byte values are digits, each marker is one, and the other 237 are of class `OTHER`, under every
configuration. That there are 256 byte values at all, a byte being 8 bits, is PRESUMED (log 28; R8, R15 and 93 Part 2
mark it as from general knowledge), and so are the counts. -/
def Obligations.ByteAlphabetCounts : Prop :=
  ∀ c : Config,
    ((List.range 256).filter fun n =>
      match classify c (BitVec.ofNat 8 n) with
      | .other _ => true
      | .nibble _ | .start | .measured | .finish => false).length = 237 ∧
    ((List.range 256).filter fun n =>
      match classify c (BitVec.ofNat 8 n) with
      | .nibble _ => true
      | .other _ | .start | .measured | .finish => false).length = 16 ∧
    classify c c.start = .start ∧ classify c c.measured = .measured ∧ classify c c.finish = .finish

/-! ### The step -/

/-- A step runs the operation the decoder reads from the word its stimulus presents, in the state from which
the stimulus has been taken: a tick samples the ports and selects by `st`, a delivery takes the oldest byte
and selects by `phase`, that byte and whether `pending` is empty; with an empty channel the decoder waits;
with no stimulus pending a free one is taken (R2, R87, R159, R180; the stimulus is the model's, log 3, log 4,
log 11, log 13, log 19). -/
def Obligations.StepRunsPresentedOperation : Prop :=
  ∀ (s : State) (rest : List Stimulus) (i : Instr),
    (∀ l p, s.stimulus = .tick l p :: rest → decode s.cfg (.fsmState s.dev.st.code) = .ok i →
      step s = exec i { s with stimulus := rest, ports := { lineLevel := l, trigger := p } }) ∧
    (∀ b bs, s.stimulus = .deliver :: rest → s.channel = b :: bs →
      decode s.cfg (.decByte (decByteWord s.dec.phase.code b) (decide (s.dec.pending = []))) = .ok i →
      step s = exec i { s with stimulus := rest, channel := bs }) ∧
    (s.stimulus = .deliver :: rest → s.channel = [] → step s = .next { s with stimulus := rest }) ∧
    (∀ b, s.stimulus = .wireByte b :: rest → decode s.cfg (.wireByte b) = .ok i →
      step s = exec i { s with stimulus := rest }) ∧
    (∀ b, s.stimulus = .wireByte b :: rest → decode s.cfg (.wireByte b) = .error (.reservedWireByte b) →
      decode s.cfg (.decByte (decByteWord s.dec.phase.code b) (decide (s.dec.pending = []))) = .ok i →
      step s = exec i { s with stimulus := rest }) ∧
    (∀ r e, s.stimulus = .tcCommand r e :: rest →
      decode s.cfg (.tcCmd (BitVec.ofBool r ++ BitVec.ofBool e)) = .ok i →
      step s = exec i { s with stimulus := rest }) ∧
    (s.stimulus = .tcRead :: rest → decode s.cfg .tcRead = .ok i → step s = exec i { s with stimulus := rest }) ∧
    (∀ v, s.stimulus = .encodeMeasurement v :: rest → decode s.cfg (.encFn 0#1 v) = .ok i →
      step s = exec i { s with stimulus := rest }) ∧
    (s.stimulus = .encodeEndOfTraining :: rest → decode s.cfg (.encFn 1#1 0#32) = .ok i →
      step s = exec i { s with stimulus := rest }) ∧
    (s.stimulus = .freshDecoder :: rest →
      step s = .next { s with
        stimulus := rest, dec := { phase := .idle, pending := [], done := [] }, events := [] }) ∧
    (s.stimulus = [] →
      step s = step { s with stimulus := [Config.freeStimulus s.freeIdx], freeIdx := s.freeIdx + 1 })

/-- Every step of every state answers a next state: no fault, no stuck state, no refusal (R158, R193, R200). -/
def Obligations.StepNeverStops : Prop := ∀ s : State, ∃ t, step s = .next t

/-- A tick of the machine is the reference listing of 45_observer_fsm.md section 3, the table of R160 with
R53, R120 and R121, and changes nothing but the device, its outputs and the stream (R159). -/
def Obligations.TickIsReferenceListing : Prop :=
  ∀ (s : State) (l p : Bool) (rest : List Stimulus), s.stimulus = .tick l p :: rest →
    step s = .next { s with
      stimulus := rest
      ports := { lineLevel := l, trigger := p }
      dev := (referenceTick s.cfg s.dev l p).1
      out := { s.out with
        lineOverrideEnable := (referenceTick s.cfg s.dev l p).2.1
        burst := (referenceTick s.cfg s.dev l p).2.2 }
      stream := s.stream ++ (referenceTick s.cfg s.dev l p).2.2
      channel := s.channel ++ (referenceTick s.cfg s.dev l p).2.2
      tick := s.tick + 1 }

/-- A byte taken from the channel, or presented from outside, runs the decoder's transition table of R192
and changes nothing but the decoder and its events; the model's `decStep` is that table. -/
def Obligations.DecoderFollowsTransitionTable : Prop :=
  ∀ (s : State) (b : Byte) (bs : List Byte) (rest : List Stimulus),
    decStep s.cfg s.dec b = referenceByte s.cfg s.dec b ∧
    (s.stimulus = .deliver :: rest → s.channel = b :: bs →
      step s = .next { s with
        stimulus := rest
        channel := bs
        dec := (referenceByte s.cfg s.dec b).1
        events := s.events ++ (referenceByte s.cfg s.dec b).2 }) ∧
    (s.stimulus = .wireByte b :: rest →
      step s = .next { s with
        stimulus := rest
        dec := (referenceByte s.cfg s.dec b).1
        events := s.events ++ (referenceByte s.cfg s.dec b).2 })

/-- R13: no step changes the configuration. -/
def Obligations.ConfigurationNeverChanges : Prop :=
  ∀ s t : State, step s = .next t → t.cfg = s.cfg

/-- R35, R20, R114: a step that is no tick leaves the device, its ports, its stream, its outputs and the tick
number as they are; one that is neither a byte nor a fresh instance leaves the decoder and its events; one
that is no command leaves the TickCounter; the stream only grows. -/
def Obligations.AgentsShareNoState : Prop :=
  ∀ s t : State, step s = .next t →
    ((∀ l p, s.nextStimulus ≠ .tick l p) →
      t.dev = s.dev ∧ t.ports = s.ports ∧ t.stream = s.stream ∧ t.tick = s.tick ∧
      t.out.lineOverrideEnable = s.out.lineOverrideEnable ∧ t.out.burst = s.out.burst) ∧
    (s.nextStimulus ≠ .deliver → (∀ b, s.nextStimulus ≠ .wireByte b) → s.nextStimulus ≠ .freshDecoder →
      t.dec = s.dec ∧ t.events = s.events) ∧
    ((∀ r e, s.nextStimulus ≠ .tcCommand r e) → t.tc = s.tc) ∧
    ∃ tx, t.stream = s.stream ++ tx

/-- The predecessors of each FSM state, as R160 lists them, over every step whatever its stimulus. -/
def Obligations.StatesEnteredOnlyAsListed : Prop :=
  ∀ s t : State, step s = .next t → t.dev.st ≠ s.dev.st →
    (t.dev.st = .idle → s.dev.st = .abort) ∧
    (t.dev.st = .trainWait → s.dev.st = .idle) ∧
    (t.dev.st = .trainCount → s.dev.st = .trainWait) ∧
    (t.dev.st = .stretchWait → s.dev.st = .trainCount ∨ s.dev.st = .holdingDone) ∧
    (t.dev.st = .holding → s.dev.st = .stretchWait) ∧
    (t.dev.st = .holdingDone → s.dev.st = .holding) ∧
    (t.dev.st = .abort → s.dev.st.abortable = true)

/-- R53, R211: at a tick the override output is 1 exactly when the state at that tick is `Holding`, the tick
of a press included; that it is a function of the state alone is the spec's own reading (D13). -/
def Obligations.OverrideExactlyInHolding : Prop :=
  ∀ (s t : State) (l p : Bool), s.nextStimulus = .tick l p → step s = .next t →
    (t.out.lineOverrideEnable = true ↔ s.dev.st = .holding)

/-! ### TickCounter -/

/-- R105: `TC.NOP` leaves the count, and everything else, unchanged. -/
def Obligations.TcNopKeepsCount : Prop :=
  ∀ s : State, exec .tcNop s = .next s

/-- R101: `TC.TICK`: one more below the maximum, unchanged at it; nothing else changes.
That the count never passes `max` is the spec's own reading (D33). -/
def Obligations.TcTickSaturates : Prop :=
  ∀ s : State,
    exec .tcTick s = .next { s with
      tc := { count := if s.tc.count < s.cfg.tcMax then s.tc.count + 1 else s.tc.count } }

/-- R102: `TC.RESET`, in both its forms `10` and `11`: the count becomes 0; nothing else changes. That `11` is a
reset is D21. -/
def Obligations.TcResetClearsCount : Prop :=
  ∀ (s : State) (en : Bool), exec (.tcReset en) s = .next { s with tc := { count := 0 } }

/-- R103: `value()` is the committed count. That the operation `TC.VALUE` holds what was read in `out.tcValue`, and
that this is all it changes, is the model's choice (DESIGN CHOICE, log 26, log 14). -/
def Obligations.TcValueReadsCount : Prop :=
  ∀ s : State, s.tc.value = s.tc.count ∧
    exec .tcValue s = .next { s with out := { s.out with tcValue := s.tc.count } }

/-- R104, R106: after any list of commands from a count of 0 the count is the lesser of the maximum and the
number of `tick()` commands since the last `reset()`; nothing else has changed. Reset wins over tick (D21). -/
def Obligations.TickCounterClosedForm : Prop :=
  ∀ (s : State) (cmds : List (Bool × Bool)) (rest : List Stimulus), s.tc.count = 0 →
    s.stimulus = cmds.map (fun cmd => .tcCommand cmd.1 cmd.2) ++ rest →
    runs cmds.length s = .next { s with
      stimulus := rest, tc := { count := min s.cfg.tcMax (ticksSinceReset cmds) } }

/-- R100: no step takes the count above the maximum. -/
def Obligations.TickCounterStaysWithinMax : Prop :=
  ∀ s t : State, s.counterInv → step s = .next t → t.counterInv

/-! ### Encoder -/

/-- R110, R111: `ENC.MEASUREMENT` gives the base-16 digits of its operand, least significant first, each as
its own byte, then `MEASURED`; it changes nothing but what is given back (R114). -/
def Obligations.EncMeasurementEmitsDigits : Prop :=
  (∀ (s : State) (v : U32), exec (.encMeasurement v) s = .next { s with
    out := { s.out with encoded := (digits v.toNat).map nibbleByte ++ [s.cfg.measured] } }) ∧
  (∀ n, n < 16 → digits n = [BitVec.ofNat 4 n]) ∧
  (∀ n, 16 ≤ n → digits n = BitVec.ofNat 4 (n % 16) :: digits (n / 16)) ∧
  (∀ d : Nibble, (nibbleByte d).toNat = d.toNat)

/-- R113: `encode_end_of_training() = [MEASURED]`; nothing else changes. -/
def Obligations.EncEndOfTrainingEmitsMeasured : Prop :=
  ∀ s : State,
    exec .encEndOfTraining s = .next { s with out := { s.out with encoded := [s.cfg.measured] } }

/-- R112: the number of digits is the least `n >= 1` with `v < 16^n`, at most 8 for a 32-bit value. The
minimal count with a floor of one is the spec's own choice (D10). -/
def Obligations.DigitCountIsLeast : Prop :=
  ∀ v : Nat, 1 ≤ ndigits v ∧ v < 16 ^ ndigits v ∧ (∀ n, 1 ≤ n → v < 16 ^ n → ndigits v ≤ n) ∧
    (v < 2 ^ 32 → ndigits v ≤ 8)

/-- R79, R57: the value of the digits of `v` is `v`, for every 32-bit `v`. -/
def Obligations.ValueOfDigitsIsIdentity : Prop :=
  ∀ v : Nat, v < 2 ^ 32 → (value (digits v)).toNat = v

/-- R116: an encoded measurement is one or more digits and then one `MEASURED`; it holds no byte of class
`OTHER`, no `START` and no `FINISH`. -/
def Obligations.EncoderEmitsOnlyGroups : Prop :=
  ∀ (c : Config) (v : Nat),
    ∃ ds, ds ≠ [] ∧ encodeMeasurement c v = ds ++ [c.measured] ∧
      (∀ b ∈ ds, ∃ n, classify c b = .nibble n ∧ b.toNat ≤ 15) ∧
      ∀ b ∈ encodeMeasurement c v, b ≠ c.start ∧ b ≠ c.finish ∧ classify c b ≠ .other b

/-- R115: `START` and an encoded 3-tuple decode to exactly that tuple, in order. -/
def Obligations.EncodedTupleDecodes : Prop :=
  ∀ (c : Config) (m0 m1 m2 : U32),
    decodeFrom c Decoder.reset (c.start :: encodeTuple c m0.toNat m1.toNat m2.toNat) =
      ({ phase := .stretching, pending := [], done := [m0, m1, m2] },
       [.startTraining, .finishTraining [m0, m1, m2], .startStretching])

/-! ### FSM operations -/

/-- R150: `Idle`: a press emits `START` and goes to `TrainWait`, no press stays; no other register but the latches
is written, whatever the line does. (In every FSM statement the latch updates are D5 and D22, and the override as a
function of the state D13.) -/
def Obligations.IdleOperation : Prop :=
  ∀ s : State, s.dev.st = .idle →
    (s.ports.trigger = true →
      exec .fsmIdle s = .next (s.ticked { s.dev with st := .trainWait } false [s.cfg.start])) ∧
    (s.ports.trigger = false → exec .fsmIdle s = .next (s.ticked { s.dev with st := .idle } false []))

/-- R151: `TrainWait`: a press aborts; else a falling edge loads `idx` with 0 and every slot with 1 and goes
to `TrainCount`; else it waits. Nothing is emitted. -/
def Obligations.TrainWaitOperation : Prop :=
  ∀ s : State, s.dev.st = .trainWait →
    (s.ports.trigger = true →
      exec .fsmTrainWait s = .next (s.ticked { s.dev with st := .abort } false [])) ∧
    (s.ports.trigger = false → s.dev.prev = true ∧ s.dev.cur = false →
      exec .fsmTrainWait s = .next (s.ticked
        { s.dev with idx := .low0, low0 := 1, high0 := 1, low1 := 1, st := .trainCount } false [])) ∧
    (s.ports.trigger = false → ¬(s.dev.prev = true ∧ s.dev.cur = false) →
      exec .fsmTrainWait s = .next (s.ticked { s.dev with st := .trainWait } false []))

/-- R152: `TrainCount`: a press aborts; else with no edge the slot `idx` selects counts, saturating at
`TICK_MAX`; else an edge finalizes it: the first two are emitted, `idx` advances and the next slot is loaded
with 1; the third is emitted with the end of training and the device goes to `StretchWait`. -/
def Obligations.TrainCountOperation : Prop :=
  ∀ s : State, s.dev.st = .trainCount →
    (s.ports.trigger = true →
      exec .fsmTrainCount s = .next (s.ticked { s.dev with st := .abort } false [])) ∧
    (s.ports.trigger = false → s.dev.cur = s.dev.prev →
      (s.dev.idx = .low0 → exec .fsmTrainCount s = .next (s.ticked { s.dev with
        low0 := if s.dev.low0 < s.cfg.tickMax then s.dev.low0 + 1 else s.dev.low0 } false [])) ∧
      (s.dev.idx = .high0 → exec .fsmTrainCount s = .next (s.ticked { s.dev with
        high0 := if s.dev.high0 < s.cfg.tickMax then s.dev.high0 + 1 else s.dev.high0 } false [])) ∧
      (s.dev.idx = .low1 → exec .fsmTrainCount s = .next (s.ticked { s.dev with
        low1 := if s.dev.low1 < s.cfg.tickMax then s.dev.low1 + 1 else s.dev.low1 } false []))) ∧
    (s.ports.trigger = false → s.dev.cur ≠ s.dev.prev →
      (s.dev.idx = .low0 → exec .fsmTrainCount s = .next (s.ticked { s.dev with idx := .high0, high0 := 1 } false
        ((digits s.dev.low0).map nibbleByte ++ [s.cfg.measured]))) ∧
      (s.dev.idx = .high0 → exec .fsmTrainCount s = .next (s.ticked { s.dev with idx := .low1, low1 := 1 } false
        ((digits s.dev.high0).map nibbleByte ++ [s.cfg.measured]))) ∧
      (s.dev.idx = .low1 → exec .fsmTrainCount s = .next (s.ticked { s.dev with st := .stretchWait } false
        ((digits s.dev.low1).map nibbleByte ++ [s.cfg.measured, s.cfg.measured]))))

/-- R153: `StretchWait`: a press aborts; else a falling edge loads `hold` with `low0 + high0 - 2`, 0 where
the sum is below 2 (the clamp is D11), and goes to `Holding`; else it waits. -/
def Obligations.StretchWaitOperation : Prop :=
  ∀ s : State, s.dev.st = .stretchWait →
    (s.ports.trigger = true →
      exec .fsmStretchWait s = .next (s.ticked { s.dev with st := .abort } false [])) ∧
    (s.ports.trigger = false → s.dev.prev = true ∧ s.dev.cur = false →
      exec .fsmStretchWait s = .next (s.ticked
        { s.dev with hold := max (s.dev.low0 + s.dev.high0) 2 - 2, st := .holding } false [])) ∧
    (s.ports.trigger = false → ¬(s.dev.prev = true ∧ s.dev.cur = false) →
      exec .fsmStretchWait s = .next (s.ticked { s.dev with st := .stretchWait } false []))

/-- R154: `Holding`: the override is 1 in every branch; a press aborts and leaves `hold`; else at `hold <= 1`
it is cleared and the device goes to `HoldingDone`; else it counts down. The form of the test is D12. -/
def Obligations.HoldingOperation : Prop :=
  ∀ s : State, s.dev.st = .holding →
    (s.ports.trigger = true →
      exec .fsmHolding s = .next (s.ticked { s.dev with st := .abort } true [])) ∧
    (s.ports.trigger = false → s.dev.hold ≤ 1 →
      exec .fsmHolding s = .next (s.ticked { s.dev with hold := 0, st := .holdingDone } true [])) ∧
    (s.ports.trigger = false → 1 < s.dev.hold →
      exec .fsmHolding s = .next (s.ticked { s.dev with hold := s.dev.hold - 1, st := .holding } true []))

/-- R156: `HoldingDone`: a press aborts; else a line read high goes to `StretchWait`; else it waits. -/
def Obligations.HoldingDoneOperation : Prop :=
  ∀ s : State, s.dev.st = .holdingDone →
    (s.ports.trigger = true →
      exec .fsmHoldingDone s = .next (s.ticked { s.dev with st := .abort } false [])) ∧
    (s.ports.trigger = false → s.dev.cur = true →
      exec .fsmHoldingDone s = .next (s.ticked { s.dev with st := .stretchWait } false [])) ∧
    (s.ports.trigger = false → s.dev.cur = false →
      exec .fsmHoldingDone s = .next (s.ticked { s.dev with st := .holdingDone } false []))

/-- R157, R208: `Abort` emits `FINISH` and returns to `Idle`, whatever the trigger (that a press is ignored
is D8); no register but `st` and the latches is written. -/
def Obligations.AbortOperation : Prop :=
  ∀ s : State, s.dev.st = .abort →
    exec .fsmAbort s = .next (s.ticked { s.dev with st := .idle } false [s.cfg.finish])

/-- R155, R206, R207: in each of the five abortable states a press only sets `st` to `Abort`: nothing is
emitted, no accumulator, index or hold register is written, whatever the line and the counters; the override
is still that of the state. The priority of the press is the spec's own (D7). -/
def Obligations.PressAbortsAndSuppressesAll : Prop :=
  ∀ (s : State) (l : Bool) (rest : List Stimulus), s.stimulus = .tick l true :: rest →
    s.dev.st.abortable = true →
    ∃ t, step s = .next t ∧
      t.dev = { s.dev with st := .abort, cur := l, prev := s.dev.cur } ∧
      t.out.burst = [] ∧ t.stream = s.stream ∧ t.channel = s.channel ∧
      t.out.lineOverrideEnable = decide (s.dev.st = .holding)

/-! ### Decoder operations -/

/-- R181: `START` in `Idle` clears both accumulators, reports `StartTraining` and enters `Training`; nothing
else changes. -/
def Obligations.DecIdleStartOperation : Prop :=
  ∀ s : State, s.dec.phase = .idle →
    exec .decIdleStart s = .next { s with
      dec := { phase := .training, pending := [], done := [] }, events := s.events ++ [.startTraining] }

/-- R182, R189, R191, R202: a byte a phase does not expect is reported with that phase and the byte, and
changes nothing (that the accumulators keep their values is D19). -/
def Obligations.UnexpectedBytesAreReported : Prop :=
  ∀ (s : State) (b : Byte),
    (s.dec.phase = .idle → b ≠ s.cfg.start →
        exec (.decIdleOther b) s = .next { s with events := s.events ++ [.unhandled .idle b] }) ∧
    (s.dec.phase = .training → 16 ≤ b.toNat → b ≠ s.cfg.measured → b ≠ s.cfg.finish →
        exec (.decTrainingOther b) s = .next { s with events := s.events ++ [.unhandled .training b] }) ∧
    (s.dec.phase = .stretching → b ≠ s.cfg.finish →
        exec (.decStretchingOther b) s = .next { s with events := s.events ++ [.unhandled .stretching b] })

/-- R183: a nibble in `Training` is appended to `pending`; no event; nothing else changes. -/
def Obligations.DecTrainingNibbleOperation : Prop :=
  ∀ (s : State) (n : Nibble), s.dec.phase = .training →
    exec (.decTrainingNibble n) s = .next { s with dec := { s.dec with pending := s.dec.pending ++ [n] } }

/-- R184, R186: `MEASURED` in `Training` with digits pending appends their value, least significant first, to
the measurements and clears them; no event. The reduction modulo `2^32` is D18. -/
def Obligations.DecTrainingMeasuredGroupOperation : Prop :=
  ∀ s : State, s.dec.phase = .training → s.dec.pending ≠ [] →
    ∃ v : U32, v.toNat = (s.dec.pending.foldr (fun d acc => d.toNat + 16 * acc) 0) % 2 ^ 32 ∧
      exec .decTrainingMeasuredGroup s = .next { s with
        dec := { s.dec with pending := [], done := s.dec.done ++ [v] } }

/-- R185: a bare `MEASURED` in `Training` reports `FinishTraining` of the whole list and then
`StartStretching`, and enters `Stretching`; the lists keep their values (D17, D19). -/
def Obligations.DecTrainingMeasuredBareOperation : Prop :=
  ∀ s : State, s.dec.phase = .training → s.dec.pending = [] →
    exec .decTrainingMeasuredBare s = .next { s with
      dec := { s.dec with phase := .stretching }
      events := s.events ++ [.finishTraining s.dec.done, .startStretching] }

/-- R187: `FINISH` in `Training` reports `FinishStretching` (the documented quirk), discards both
accumulators and returns to `Idle`. -/
def Obligations.DecTrainingFinishOperation : Prop :=
  ∀ s : State, s.dec.phase = .training →
    exec .decTrainingFinish s = .next { s with
      dec := { phase := .idle, pending := [], done := [] }, events := s.events ++ [.finishStretching] }

/-- R190: `FINISH` in `Stretching` reports `FinishStretching` and returns to `Idle`; the lists keep their
values (D19). -/
def Obligations.DecStretchingFinishOperation : Prop :=
  ∀ s : State, s.dec.phase = .stretching →
    exec .decStretchingFinish s = .next { s with
      dec := { s.dec with phase := .idle }, events := s.events ++ [.finishStretching] }

/-- The four wire symbols are what the decoder does on receiving them, phase by phase: the operation of the
row that consumes them (R71, R72 table, R192). That this is their meaning as operations is the model's reading
(log 10). Nothing but the decoder and its events changes. -/
def Obligations.WireSymbolsRunDecoderRows : Prop :=
  ∀ (s : State) (n : Nibble),
    (∃ t, exec .wireStart s = .next t) ∧ (∃ t, exec .wireMeasured s = .next t) ∧
    (∃ t, exec .wireFinish s = .next t) ∧ (∃ t, exec (.wireNibble n) s = .next t) ∧
    (s.dec.phase = .idle →
      exec .wireStart s = exec .decIdleStart s ∧
      exec .wireMeasured s = exec (.decIdleOther s.cfg.measured) s ∧
      exec .wireFinish s = exec (.decIdleOther s.cfg.finish) s ∧
      exec (.wireNibble n) s = exec (.decIdleOther (0b0000#4 ++ n)) s) ∧
    (s.dec.phase = .training →
      exec .wireStart s = exec (.decTrainingOther s.cfg.start) s ∧
      (s.dec.pending ≠ [] → exec .wireMeasured s = exec .decTrainingMeasuredGroup s) ∧
      (s.dec.pending = [] → exec .wireMeasured s = exec .decTrainingMeasuredBare s) ∧
      exec .wireFinish s = exec .decTrainingFinish s ∧
      exec (.wireNibble n) s = exec (.decTrainingNibble n) s) ∧
    (s.dec.phase = .stretching →
      exec .wireStart s = exec (.decStretchingOther s.cfg.start) s ∧
      exec .wireMeasured s = exec (.decStretchingOther s.cfg.measured) s ∧
      exec .wireFinish s = exec .decStretchingFinish s ∧
      exec (.wireNibble n) s = exec (.decStretchingOther (0b0000#4 ++ n)) s)

/-- R202: the causes of `Unhandled`, complete: the event reports the phase and the byte, and occurs exactly
for the listed pairs. -/
def Obligations.UnhandledCausesComplete : Prop :=
  ∀ (c : Config) (d : Decoder) (b b' : Byte) (ph : Phase),
    .unhandled ph b' ∈ (decStep c d b).2 ↔
      ph = d.phase ∧ b' = b ∧
      ((ph = .idle ∧ b ≠ c.start) ∨
       (ph = .training ∧ 16 ≤ b.toNat ∧ b ≠ c.measured ∧ b ≠ c.finish) ∨
       (ph = .stretching ∧ b ≠ c.finish))

/-- R91: no byte yields more than two events; two only for the bare `MEASURED` in `Training`; none exactly
for a nibble, and a `MEASURED` that completes a group, in `Training`. -/
def Obligations.EventCountPerByte : Prop :=
  ∀ (c : Config) (d : Decoder) (b : Byte),
    (decStep c d b).2.length ≤ 2 ∧
    ((decStep c d b).2.length = 2 ↔ d.phase = .training ∧ b = c.measured ∧ d.pending = []) ∧
    ((decStep c d b).2.length = 0 ↔
      d.phase = .training ∧ (b.toNat ≤ 15 ∨ (b = c.measured ∧ d.pending ≠ [])))

/-- R188: `decode` concatenates the events of the bytes, each byte's events and next state depending on that byte
and the state alone, from `(Idle, [], [])` (D14); so it is incremental: the events of `bs ++ cs` are those of `bs` and
then those of `cs` from the state `bs` left. -/
def Obligations.DecodingIsIncremental : Prop :=
  ∀ (c : Config) (bs cs : List Byte) (b : Byte),
    decodeStream c [] = [] ∧
    decodeStream c (bs ++ [b]) =
      decodeStream c bs ++ (decStep c (decodeFrom c { phase := .idle, pending := [], done := [] } bs).1 b).2 ∧
    (decodeFrom c Decoder.reset (bs ++ [b])).1 = (decStep c (decodeFrom c Decoder.reset bs).1 b).1 ∧
    decodeStream c (bs ++ cs) = decodeStream c bs ++ (decodeFrom c (decodeFrom c Decoder.reset bs).1 cs).2 ∧
    decodeStream c bs <+: decodeStream c (bs ++ cs)

/-- R196: the source's three end-to-end scenarios, under every configuration. -/
def Obligations.SourceScenariosDecode : Prop :=
  ∀ c : Config,
    decodeStream c [c.start, 0x3#8, c.measured, 0x5#8, c.measured, 0x2#8, c.measured, c.measured] =
      [.startTraining, .finishTraining [3#32, 5#32, 2#32], .startStretching] ∧
    decodeStream c [c.start, 0x3#8, c.measured, 0x5#8, c.measured, 0x2#8, c.measured, c.measured, c.finish] =
      decodeStream c [c.start, 0x3#8, c.measured, 0x5#8, c.measured, 0x2#8, c.measured, c.measured] ++
        [.finishStretching] ∧
    (decodeFrom c Decoder.reset
      [c.start, 0x3#8, c.measured, 0x5#8, c.measured, 0x2#8, c.measured, c.measured, c.finish]).1.phase = .idle ∧
    decodeStream c [c.start, 0x1#8, c.finish] = [.startTraining, .finishStretching] ∧
    (decodeFrom c Decoder.reset [c.start, 0x1#8, c.finish]).1.phase = .idle

/-! ### Invariants -/

/-- R37, R38, R39: every step keeps the device's invariant: accumulators between 1 and `TICK_MAX` in the
measuring states, `hold <= 2 * TICK_MAX - 2`, and the parity of the measured level. -/
def Obligations.DeviceInvariantKept : Prop :=
  ∀ s t : State, s.dev.inv s.cfg → step s = .next t → t.dev.inv t.cfg

/-- R6, R11, R39, R55, R147: under the device's invariant every register fits its width, and the burst of the
next tick has at most `ceil(W/4) + 2` bytes. -/
def Obligations.RegistersAndBurstsFit : Prop :=
  ∀ s : State, s.dev.inv s.cfg →
    s.dev.low0 < 2 ^ s.cfg.W ∧ s.dev.high0 < 2 ^ s.cfg.W ∧ s.dev.low1 < 2 ^ s.cfg.W ∧
    s.dev.hold < 2 ^ s.cfg.holdW ∧
    ∀ l p t, s.nextStimulus = .tick l p → step s = .next t → t.out.burst.length ≤ (s.cfg.W + 3) / 4 + 2

/-- R77, R195: whatever happens, a decoder of the whole stream stays in step with the device, sees nothing
unexpected, and reports exactly the finalized measurements. -/
def Obligations.TelemetryDecodesInStep : Prop :=
  ∀ s t : State, s.telemetryInv → step s = .next t → t.telemetryInv

/-- R56, R188: as long as no byte from outside the stream is presented and no fresh instance replaces it, the
decoder has taken exactly the bytes that left the channel, in order. The premise on the stimulus is the
model's (log 11, log 19). -/
def Obligations.DecoderTakesStreamInOrder : Prop :=
  ∀ s t : State, s.linkInv → (∀ b, s.nextStimulus ≠ .wireByte b) → s.nextStimulus ≠ .freshDecoder →
    step s = .next t → t.linkInv

/-- R195: where the stream decodes in step and the decoder has taken a part of it, the decoder has reported
no `Unhandled`. -/
def Obligations.NoUnhandledFromDevice : Prop :=
  ∀ s : State, s.telemetryInv → s.linkInv → ∀ e ∈ s.events, e.expected = true

/-- R36, and the source's "no leakage of stale nibble/measurement accumulators": two states that differ only
in stale registers step to two such states, with equal outputs, stream and events. -/
def Obligations.StaleRegistersNeverShow : Prop :=
  ∀ s t s' t' : State, sameButStale s t → step s = .next s' → step t = .next t' → sameButStale s' t'

/-! ### Behaviour over several ticks -/

/-- R120 to R123: after two ticks `prev` and `cur` are the two samples, and the edge predicates tell the
change between them. That `cur` is a register is the spec's own reading (D5). -/
def Obligations.LatchesHoldLastTwoSamples : Prop :=
  ∀ (s : State) (l0 l1 p0 p1 : Bool) (rest : List Stimulus),
    s.stimulus = .tick l0 p0 :: .tick l1 p1 :: rest →
    ∃ t, runs 2 s = .next t ∧ t.dev.prev = l0 ∧ t.dev.cur = l1 ∧
      t.dev.edge = decide (l0 ≠ l1) ∧ t.dev.levelEq = decide (l0 = l1) ∧
      t.dev.fall = (l0 && !l1) ∧ t.dev.rise = (!l0 && l1)

/-- R144: entered with `hold = H` and with no press, `Holding` lasts exactly `max(H, 1)` ticks, the override
being asserted at each of them, and ends in `HoldingDone` with `hold = 0` and nothing emitted. The form of the
test is D12. -/
def Obligations.HoldingLastsItsDuration : Prop :=
  ∀ (s : State) (ls : List Bool) (rest : List Stimulus), s.dev.st = .holding →
    s.stimulus = quietTicks ls ++ rest → ls.length = max s.dev.hold 1 →
    (∀ j, j < ls.length →
      ∃ t t', runs j s = .next t ∧ t.dev.st = .holding ∧ t.dev.hold = s.dev.hold - j ∧
        step t = .next t' ∧ t'.out.lineOverrideEnable = true) ∧
    ∃ t, runs ls.length s = .next t ∧ t.dev.st = .holdingDone ∧ t.dev.hold = 0 ∧
      t.dev.lineOverride = false ∧ t.stream = s.stream ∧
      t.dev.idx = s.dev.idx ∧ t.dev.low0 = s.dev.low0 ∧ t.dev.high0 = s.dev.high0 ∧ t.dev.low1 = s.dev.low1

/-- R132, R134, R135, R137: a slot loaded with 1 whose level lasts `n + 2` samples is finalized, and emitted,
as `min(TICK_MAX, n + 2)`. -/
def Obligations.MeasurementIsLevelDuration : Prop :=
  ∀ (s : State) (v x : Bool) (n : Nat) (rest : List Stimulus),
    s.dev.st = .trainCount → s.dev.cur = v → s.dev.prev = v → s.dev.meas s.dev.idx = 1 →
    s.stimulus = quietTicks (List.replicate n v ++ [!v, x]) ++ rest →
    ∃ t, runs (n + 2) s = .next t ∧ t.dev.meas s.dev.idx = min s.cfg.tickMax (n + 2) ∧
      t.out.burst = encodeMeasurement s.cfg (min s.cfg.tickMax (n + 2)) ++
        (if s.dev.idx = .low1 then [s.cfg.measured] else []) ∧
      t.stream = s.stream ++ t.out.burst

/-- R131 to R136, R161: from `TrainWait` with the line high, a line that is then low for `a`, high for `b` and
low for `c` samples, with no press, takes the device to `StretchWait` with those three durations, each capped
at `TICK_MAX`, having emitted exactly their encoding. -/
def Obligations.TrainingMeasuresThreeHalfPeriods : Prop :=
  ∀ (s : State) (a b c : Nat) (x : Bool) (rest : List Stimulus),
    s.dev.st = .trainWait → s.dev.cur = true → 1 ≤ a → 1 ≤ b → 1 ≤ c →
    s.stimulus =
      quietTicks (List.replicate a false ++ List.replicate b true ++ List.replicate c false ++ [true, x]) ++ rest →
    ∃ t, runs (a + b + c + 2) s = .next t ∧ t.dev.st = .stretchWait ∧
      t.dev.low0 = min s.cfg.tickMax a ∧ t.dev.high0 = min s.cfg.tickMax b ∧ t.dev.low1 = min s.cfg.tickMax c ∧
      t.dev.idx = .low1 ∧ t.dev.cur = x ∧ t.dev.prev = true ∧ t.dev.hold = s.dev.hold ∧
      t.stream = s.stream ++
        encodeTuple s.cfg (min s.cfg.tickMax a) (min s.cfg.tickMax b) (min s.cfg.tickMax c)

/-- R162, R236: a trigger held for `3 n` ticks from `Idle` loops with period 3, emitting `START`, nothing,
`FINISH` each time, and writes no accumulator. The level-sensitive trigger is D6. -/
def Obligations.HeldTriggerLoopsWithPeriodThree : Prop :=
  ∀ (s : State) (n : Nat) (ls : List Bool) (rest : List Stimulus), s.dev.st = .idle →
    s.stimulus = pressedTicks ls ++ rest → ls.length = 3 * n →
    ∃ t, runs (3 * n) s = .next t ∧ t.dev.st = .idle ∧
      t.stream = s.stream ++ (List.replicate n [s.cfg.start, s.cfg.finish]).flatten ∧
      t.dev.idx = s.dev.idx ∧ t.dev.low0 = s.dev.low0 ∧ t.dev.high0 = s.dev.high0 ∧
      t.dev.low1 = s.dev.low1 ∧ t.dev.hold = s.dev.hold

/-- R163, R209, R237: a press in an abortable state, a tick with any trigger, and a press: the shortest
restart; the stream gets `FINISH` and `START` and nothing between (D7, D8). -/
def Obligations.ShortestRestartIsTwoTicks : Prop :=
  ∀ (s : State) (l0 l1 l2 p : Bool) (rest : List Stimulus), s.dev.st.abortable = true →
    s.stimulus = .tick l0 true :: .tick l1 p :: .tick l2 true :: rest →
    ∃ t, runs 3 s = .next t ∧ t.dev.st = .trainWait ∧
      t.stream = s.stream ++ [s.cfg.finish, s.cfg.start] ∧ t.dev.cur = l2 ∧ t.dev.prev = l1
end

