-- ==== Sys2Proof/Laws/State.lean ====
section
/-! SUPPORT. One lemma per field of State and per update, so that no proof unfolds a record update; and the
registers of the device under each of its micro-operations. -/

namespace Sys2Proof.Machine

variable (s : State)

@[simp] theorem State.commitTick_cfg (r : Device × List Byte) : (s.commitTick r).cfg = s.cfg := rfl
@[simp] theorem State.commitTick_dev (r : Device × List Byte) : (s.commitTick r).dev = r.1.latch s.dev s.ports.lineLevel := rfl
@[simp] theorem State.commitTick_tc (r : Device × List Byte) : (s.commitTick r).tc = s.tc := rfl
@[simp] theorem State.commitTick_dec (r : Device × List Byte) : (s.commitTick r).dec = s.dec := rfl
@[simp] theorem State.commitTick_ports (r : Device × List Byte) : (s.commitTick r).ports = s.ports := rfl
@[simp] theorem State.commitTick_out (r : Device × List Byte) : (s.commitTick r).out = { s.out with lineOverrideEnable := s.dev.lineOverride, burst := r.2 } := rfl
@[simp] theorem State.commitTick_stream (r : Device × List Byte) : (s.commitTick r).stream = s.stream ++ r.2 := rfl
@[simp] theorem State.commitTick_channel (r : Device × List Byte) : (s.commitTick r).channel = s.channel ++ r.2 := rfl
@[simp] theorem State.commitTick_events (r : Device × List Byte) : (s.commitTick r).events = s.events := rfl
@[simp] theorem State.commitTick_tick (r : Device × List Byte) : (s.commitTick r).tick = s.tick + 1 := rfl
@[simp] theorem State.commitTick_stimulus (r : Device × List Byte) : (s.commitTick r).stimulus = s.stimulus := rfl
@[simp] theorem State.commitTick_freeIdx (r : Device × List Byte) : (s.commitTick r).freeIdx = s.freeIdx := rfl

@[simp] theorem State.commitByte_cfg (r : Decoder × List Event) : (s.commitByte r).cfg = s.cfg := rfl
@[simp] theorem State.commitByte_dev (r : Decoder × List Event) : (s.commitByte r).dev = s.dev := rfl
@[simp] theorem State.commitByte_tc (r : Decoder × List Event) : (s.commitByte r).tc = s.tc := rfl
@[simp] theorem State.commitByte_dec (r : Decoder × List Event) : (s.commitByte r).dec = r.1 := rfl
@[simp] theorem State.commitByte_ports (r : Decoder × List Event) : (s.commitByte r).ports = s.ports := rfl
@[simp] theorem State.commitByte_out (r : Decoder × List Event) : (s.commitByte r).out = s.out := rfl
@[simp] theorem State.commitByte_stream (r : Decoder × List Event) : (s.commitByte r).stream = s.stream := rfl
@[simp] theorem State.commitByte_channel (r : Decoder × List Event) : (s.commitByte r).channel = s.channel := rfl
@[simp] theorem State.commitByte_events (r : Decoder × List Event) : (s.commitByte r).events = s.events ++ r.2 := rfl
@[simp] theorem State.commitByte_tick (r : Decoder × List Event) : (s.commitByte r).tick = s.tick := rfl
@[simp] theorem State.commitByte_stimulus (r : Decoder × List Event) : (s.commitByte r).stimulus = s.stimulus := rfl
@[simp] theorem State.commitByte_freeIdx (r : Decoder × List Event) : (s.commitByte r).freeIdx = s.freeIdx := rfl

@[simp] theorem State.tcStep_cfg (rst en : Bool) : (s.tcStep rst en).cfg = s.cfg := rfl
@[simp] theorem State.tcStep_dev (rst en : Bool) : (s.tcStep rst en).dev = s.dev := rfl
@[simp] theorem State.tcStep_tc (rst en : Bool) : (s.tcStep rst en).tc = s.tc.command s.cfg.tcMax rst en := rfl
@[simp] theorem State.tcStep_dec (rst en : Bool) : (s.tcStep rst en).dec = s.dec := rfl
@[simp] theorem State.tcStep_ports (rst en : Bool) : (s.tcStep rst en).ports = s.ports := rfl
@[simp] theorem State.tcStep_out (rst en : Bool) : (s.tcStep rst en).out = s.out := rfl
@[simp] theorem State.tcStep_stream (rst en : Bool) : (s.tcStep rst en).stream = s.stream := rfl
@[simp] theorem State.tcStep_channel (rst en : Bool) : (s.tcStep rst en).channel = s.channel := rfl
@[simp] theorem State.tcStep_events (rst en : Bool) : (s.tcStep rst en).events = s.events := rfl
@[simp] theorem State.tcStep_tick (rst en : Bool) : (s.tcStep rst en).tick = s.tick := rfl
@[simp] theorem State.tcStep_stimulus (rst en : Bool) : (s.tcStep rst en).stimulus = s.stimulus := rfl
@[simp] theorem State.tcStep_freeIdx (rst en : Bool) : (s.tcStep rst en).freeIdx = s.freeIdx := rfl

@[simp] theorem State.returnEncoded_cfg (bytes : List Byte) : (s.returnEncoded bytes).cfg = s.cfg := rfl
@[simp] theorem State.returnEncoded_dev (bytes : List Byte) : (s.returnEncoded bytes).dev = s.dev := rfl
@[simp] theorem State.returnEncoded_tc (bytes : List Byte) : (s.returnEncoded bytes).tc = s.tc := rfl
@[simp] theorem State.returnEncoded_dec (bytes : List Byte) : (s.returnEncoded bytes).dec = s.dec := rfl
@[simp] theorem State.returnEncoded_ports (bytes : List Byte) : (s.returnEncoded bytes).ports = s.ports := rfl
@[simp] theorem State.returnEncoded_out (bytes : List Byte) : (s.returnEncoded bytes).out = { s.out with encoded := bytes } := rfl
@[simp] theorem State.returnEncoded_stream (bytes : List Byte) : (s.returnEncoded bytes).stream = s.stream := rfl
@[simp] theorem State.returnEncoded_channel (bytes : List Byte) : (s.returnEncoded bytes).channel = s.channel := rfl
@[simp] theorem State.returnEncoded_events (bytes : List Byte) : (s.returnEncoded bytes).events = s.events := rfl
@[simp] theorem State.returnEncoded_tick (bytes : List Byte) : (s.returnEncoded bytes).tick = s.tick := rfl
@[simp] theorem State.returnEncoded_stimulus (bytes : List Byte) : (s.returnEncoded bytes).stimulus = s.stimulus := rfl
@[simp] theorem State.returnEncoded_freeIdx (bytes : List Byte) : (s.returnEncoded bytes).freeIdx = s.freeIdx := rfl

@[simp] theorem State.readCounter_cfg : s.readCounter.cfg = s.cfg := rfl
@[simp] theorem State.readCounter_dev : s.readCounter.dev = s.dev := rfl
@[simp] theorem State.readCounter_tc : s.readCounter.tc = s.tc := rfl
@[simp] theorem State.readCounter_dec : s.readCounter.dec = s.dec := rfl
@[simp] theorem State.readCounter_ports : s.readCounter.ports = s.ports := rfl
@[simp] theorem State.readCounter_out : s.readCounter.out = { s.out with tcValue := s.tc.count } := rfl
@[simp] theorem State.readCounter_stream : s.readCounter.stream = s.stream := rfl
@[simp] theorem State.readCounter_channel : s.readCounter.channel = s.channel := rfl
@[simp] theorem State.readCounter_events : s.readCounter.events = s.events := rfl
@[simp] theorem State.readCounter_tick : s.readCounter.tick = s.tick := rfl
@[simp] theorem State.readCounter_stimulus : s.readCounter.stimulus = s.stimulus := rfl
@[simp] theorem State.readCounter_freeIdx : s.readCounter.freeIdx = s.freeIdx := rfl

@[simp] theorem State.renewDecoder_cfg : s.renewDecoder.cfg = s.cfg := rfl
@[simp] theorem State.renewDecoder_dev : s.renewDecoder.dev = s.dev := rfl
@[simp] theorem State.renewDecoder_tc : s.renewDecoder.tc = s.tc := rfl
@[simp] theorem State.renewDecoder_dec : s.renewDecoder.dec = Decoder.reset := rfl
@[simp] theorem State.renewDecoder_ports : s.renewDecoder.ports = s.ports := rfl
@[simp] theorem State.renewDecoder_out : s.renewDecoder.out = s.out := rfl
@[simp] theorem State.renewDecoder_stream : s.renewDecoder.stream = s.stream := rfl
@[simp] theorem State.renewDecoder_channel : s.renewDecoder.channel = s.channel := rfl
@[simp] theorem State.renewDecoder_events : s.renewDecoder.events = [] := rfl
@[simp] theorem State.renewDecoder_tick : s.renewDecoder.tick = s.tick := rfl
@[simp] theorem State.renewDecoder_stimulus : s.renewDecoder.stimulus = s.stimulus := rfl
@[simp] theorem State.renewDecoder_freeIdx : s.renewDecoder.freeIdx = s.freeIdx := rfl

@[simp] theorem State.sample_cfg (l p : Bool) : (s.sample l p).cfg = s.cfg := rfl
@[simp] theorem State.sample_dev (l p : Bool) : (s.sample l p).dev = s.dev := rfl
@[simp] theorem State.sample_tc (l p : Bool) : (s.sample l p).tc = s.tc := rfl
@[simp] theorem State.sample_dec (l p : Bool) : (s.sample l p).dec = s.dec := rfl
@[simp] theorem State.sample_ports (l p : Bool) : (s.sample l p).ports = { lineLevel := l, trigger := p } := rfl
@[simp] theorem State.sample_out (l p : Bool) : (s.sample l p).out = s.out := rfl
@[simp] theorem State.sample_stream (l p : Bool) : (s.sample l p).stream = s.stream := rfl
@[simp] theorem State.sample_channel (l p : Bool) : (s.sample l p).channel = s.channel := rfl
@[simp] theorem State.sample_events (l p : Bool) : (s.sample l p).events = s.events := rfl
@[simp] theorem State.sample_tick (l p : Bool) : (s.sample l p).tick = s.tick := rfl
@[simp] theorem State.sample_stimulus (l p : Bool) : (s.sample l p).stimulus = s.stimulus := rfl
@[simp] theorem State.sample_freeIdx (l p : Bool) : (s.sample l p).freeIdx = s.freeIdx := rfl

@[simp] theorem State.leaveInChannel_cfg (rest : List Byte) : (s.leaveInChannel rest).cfg = s.cfg := rfl
@[simp] theorem State.leaveInChannel_dev (rest : List Byte) : (s.leaveInChannel rest).dev = s.dev := rfl
@[simp] theorem State.leaveInChannel_tc (rest : List Byte) : (s.leaveInChannel rest).tc = s.tc := rfl
@[simp] theorem State.leaveInChannel_dec (rest : List Byte) : (s.leaveInChannel rest).dec = s.dec := rfl
@[simp] theorem State.leaveInChannel_ports (rest : List Byte) : (s.leaveInChannel rest).ports = s.ports := rfl
@[simp] theorem State.leaveInChannel_out (rest : List Byte) : (s.leaveInChannel rest).out = s.out := rfl
@[simp] theorem State.leaveInChannel_stream (rest : List Byte) : (s.leaveInChannel rest).stream = s.stream := rfl
@[simp] theorem State.leaveInChannel_channel (rest : List Byte) : (s.leaveInChannel rest).channel = rest := rfl
@[simp] theorem State.leaveInChannel_events (rest : List Byte) : (s.leaveInChannel rest).events = s.events := rfl
@[simp] theorem State.leaveInChannel_tick (rest : List Byte) : (s.leaveInChannel rest).tick = s.tick := rfl
@[simp] theorem State.leaveInChannel_stimulus (rest : List Byte) : (s.leaveInChannel rest).stimulus = s.stimulus := rfl
@[simp] theorem State.leaveInChannel_freeIdx (rest : List Byte) : (s.leaveInChannel rest).freeIdx = s.freeIdx := rfl

@[simp] theorem State.ticked_cfg (d : Device) (ov : Bool) (tx : List Byte) : (s.ticked d ov tx).cfg = s.cfg := rfl
@[simp] theorem State.ticked_dev (d : Device) (ov : Bool) (tx : List Byte) : (s.ticked d ov tx).dev = { d with cur := s.ports.lineLevel, prev := s.dev.cur } := rfl
@[simp] theorem State.ticked_tc (d : Device) (ov : Bool) (tx : List Byte) : (s.ticked d ov tx).tc = s.tc := rfl
@[simp] theorem State.ticked_dec (d : Device) (ov : Bool) (tx : List Byte) : (s.ticked d ov tx).dec = s.dec := rfl
@[simp] theorem State.ticked_ports (d : Device) (ov : Bool) (tx : List Byte) : (s.ticked d ov tx).ports = s.ports := rfl
@[simp] theorem State.ticked_out (d : Device) (ov : Bool) (tx : List Byte) : (s.ticked d ov tx).out = { s.out with lineOverrideEnable := ov, burst := tx } := rfl
@[simp] theorem State.ticked_stream (d : Device) (ov : Bool) (tx : List Byte) : (s.ticked d ov tx).stream = s.stream ++ tx := rfl
@[simp] theorem State.ticked_channel (d : Device) (ov : Bool) (tx : List Byte) : (s.ticked d ov tx).channel = s.channel ++ tx := rfl
@[simp] theorem State.ticked_events (d : Device) (ov : Bool) (tx : List Byte) : (s.ticked d ov tx).events = s.events := rfl
@[simp] theorem State.ticked_tick (d : Device) (ov : Bool) (tx : List Byte) : (s.ticked d ov tx).tick = s.tick + 1 := rfl
@[simp] theorem State.ticked_stimulus (d : Device) (ov : Bool) (tx : List Byte) : (s.ticked d ov tx).stimulus = s.stimulus := rfl
@[simp] theorem State.ticked_freeIdx (d : Device) (ov : Bool) (tx : List Byte) : (s.ticked d ov tx).freeIdx = s.freeIdx := rfl

variable (d : Device)

@[simp] theorem Device.latch_st (old : Device) (l : Bool) : (d.latch old l).st = d.st := rfl
@[simp] theorem Device.latch_cur (old : Device) (l : Bool) : (d.latch old l).cur = l := rfl
@[simp] theorem Device.latch_prev (old : Device) (l : Bool) : (d.latch old l).prev = old.cur := rfl
@[simp] theorem Device.latch_idx (old : Device) (l : Bool) : (d.latch old l).idx = d.idx := rfl
@[simp] theorem Device.latch_low0 (old : Device) (l : Bool) : (d.latch old l).low0 = d.low0 := rfl
@[simp] theorem Device.latch_high0 (old : Device) (l : Bool) : (d.latch old l).high0 = d.high0 := rfl
@[simp] theorem Device.latch_low1 (old : Device) (l : Bool) : (d.latch old l).low1 = d.low1 := rfl
@[simp] theorem Device.latch_hold (old : Device) (l : Bool) : (d.latch old l).hold = d.hold := rfl

@[simp] theorem Device.loadAll_st : d.loadAll.st = d.st := rfl
@[simp] theorem Device.loadAll_cur : d.loadAll.cur = d.cur := rfl
@[simp] theorem Device.loadAll_prev : d.loadAll.prev = d.prev := rfl
@[simp] theorem Device.loadAll_idx : d.loadAll.idx = .low0 := rfl
@[simp] theorem Device.loadAll_low0 : d.loadAll.low0 = 1 := rfl
@[simp] theorem Device.loadAll_high0 : d.loadAll.high0 = 1 := rfl
@[simp] theorem Device.loadAll_low1 : d.loadAll.low1 = 1 := rfl
@[simp] theorem Device.loadAll_hold : d.loadAll.hold = d.hold := rfl

@[simp] theorem Device.loadHold_st : d.loadHold.st = d.st := rfl
@[simp] theorem Device.loadHold_cur : d.loadHold.cur = d.cur := rfl
@[simp] theorem Device.loadHold_prev : d.loadHold.prev = d.prev := rfl
@[simp] theorem Device.loadHold_idx : d.loadHold.idx = d.idx := rfl
@[simp] theorem Device.loadHold_low0 : d.loadHold.low0 = d.low0 := rfl
@[simp] theorem Device.loadHold_high0 : d.loadHold.high0 = d.high0 := rfl
@[simp] theorem Device.loadHold_low1 : d.loadHold.low1 = d.low1 := rfl
@[simp] theorem Device.loadHold_hold : d.loadHold.hold = holdDuration d.low0 d.high0 := rfl

@[simp] theorem Device.setMeas_st (i : MeasIdx) (v : Nat) : (d.setMeas i v).st = d.st := by cases i <;> rfl
@[simp] theorem Device.setMeas_cur (i : MeasIdx) (v : Nat) : (d.setMeas i v).cur = d.cur := by cases i <;> rfl
@[simp] theorem Device.setMeas_prev (i : MeasIdx) (v : Nat) : (d.setMeas i v).prev = d.prev := by cases i <;> rfl
@[simp] theorem Device.setMeas_idx (i : MeasIdx) (v : Nat) : (d.setMeas i v).idx = d.idx := by cases i <;> rfl
@[simp] theorem Device.setMeas_hold (i : MeasIdx) (v : Nat) : (d.setMeas i v).hold = d.hold := by cases i <;> rfl

/-- A slot reads what was last written to it, and keeps its value when another is written. -/
theorem Device.meas_setMeas (i j : MeasIdx) (v : Nat) :
    (d.setMeas i v).meas j = if j = i then v else d.meas j := by
  cases i <;> cases j <;> rfl

end Sys2Proof.Machine
end

