-- ==== Sys2Proof/Laws/Decode.lean ====
section
/-! SUPPORT. What the constraints of a configuration give, the classification of a byte, and the fields of a
`dec_byte` word. -/

namespace Sys2Proof

/-- The constraints of a configuration, one by one (R6, R7, R8). -/
theorem Config.facts (c : Config) :
    1 ≤ c.W ∧ c.W ≤ 32 ∧ 1 ≤ c.tickMax ∧ c.tickMax ≤ 2 ^ c.W - 1 ∧
    16 ≤ c.start.toNat ∧ 16 ≤ c.measured.toNat ∧ 16 ≤ c.finish.toNat ∧
    c.start ≠ c.measured ∧ c.start ≠ c.finish ∧ c.measured ≠ c.finish := by
  have h := c.ok
  simp only [Params.valid, Bool.and_eq_true, decide_eq_true_eq] at h
  obtain ⟨⟨⟨⟨⟨⟨⟨⟨⟨h1, h2⟩, h3⟩, h4⟩, h5⟩, h6⟩, h7⟩, h8⟩, h9⟩, h10⟩ := h
  exact ⟨h1, h2, h3, h4, h5, h6, h7, h8, h9, h10⟩

theorem Config.one_le_tickMax (c : Config) : 1 ≤ c.tickMax := c.facts.2.2.1

/-- `TICK_MAX` fits 32 bits, whatever the width. -/
theorem Config.tickMax_lt (c : Config) : c.tickMax < 2 ^ 32 := by
  obtain ⟨h1, h2, _, h4, _⟩ := c.facts
  have := Nat.pow_le_pow_right (n := 2) (by omega) h2
  have := Nat.two_pow_pos c.W
  omega

@[simp] theorem toNat_nibbleByte (n : Nibble) : (nibbleByte n).toNat = n.toNat := by
  have := n.isLt
  simp [nibbleByte]
  omega

theorem nibbleByte_eq_append (n : Nibble) : nibbleByte n = (0b0000#4 ++ n : BitVec 8) := by
  revert n; decide

/-- A marker is never a digit byte. -/
theorem nibbleByte_ne_marker (n : Nibble) {m : Byte} (h : 16 ≤ m.toNat) : nibbleByte n ≠ m := by
  intro e
  have := congrArg BitVec.toNat e
  have := n.isLt
  simp at *
  omega

@[simp] theorem classify_nibbleByte (c : Config) (n : Nibble) : classify c (nibbleByte n) = .nibble n := by
  have := n.isLt
  have h : (nibbleByte n).toNat ≤ 15 := by simp; omega
  rw [classify, if_pos h]
  congr 1
  apply BitVec.eq_of_toNat_eq
  simp
  omega

@[simp] theorem classify_start (c : Config) : classify c c.start = .start := by
  obtain ⟨_, _, _, _, h, _⟩ := c.facts
  simp [classify, show ¬ c.start.toNat ≤ 15 by omega]

@[simp] theorem classify_measured (c : Config) : classify c c.measured = .measured := by
  obtain ⟨_, _, _, _, _, h, _, h8, _⟩ := c.facts
  simp [classify, show ¬ c.measured.toNat ≤ 15 by omega, h8.symm]

@[simp] theorem classify_finish (c : Config) : classify c c.finish = .finish := by
  obtain ⟨_, _, _, _, _, _, h, _, h9, h10⟩ := c.facts
  simp [classify, show ¬ c.finish.toNat ≤ 15 by omega, h9.symm, h10.symm]

/-- The five classes of a byte, each with what it says of the byte (R70). -/
theorem classify_cases (c : Config) (b : Byte) :
    (∃ n, b = nibbleByte n ∧ b.toNat ≤ 15 ∧ classify c b = .nibble n) ∨
    (b = c.start ∧ classify c b = .start) ∨ (b = c.measured ∧ classify c b = .measured) ∨
    (b = c.finish ∧ classify c b = .finish) ∨
    (16 ≤ b.toNat ∧ b ≠ c.start ∧ b ≠ c.measured ∧ b ≠ c.finish ∧ classify c b = .other b) := by
  by_cases h : b.toNat ≤ 15
  · refine .inl ⟨b.setWidth 4, ?_, h, by simp [classify, h]⟩
    apply BitVec.eq_of_toNat_eq
    simp
    omega
  by_cases hs : b = c.start
  · exact .inr (.inl ⟨hs, by rw [hs]; simp⟩)
  by_cases hm : b = c.measured
  · exact .inr (.inr (.inl ⟨hm, by rw [hm]; simp⟩))
  by_cases hf : b = c.finish
  · exact .inr (.inr (.inr (.inl ⟨hf, by rw [hf]; simp⟩)))
  exact .inr (.inr (.inr (.inr ⟨by omega, hs, hm, hf, by simp [classify, h, hs, hm, hf]⟩)))

@[simp] theorem decByteWord_phase (p : BitVec 2) (b : Byte) : (decByteWord p b).extractLsb' 8 2 = p := by
  revert p b; decide

@[simp] theorem decByteWord_byte (p : BitVec 2) (b : Byte) : (decByteWord p b).extractLsb' 0 8 = b := by
  revert p b; decide

/-- Every `dec_byte` word is put together from its phase and its byte. -/
theorem eq_decByteWord (w : BitVec 10) : w = decByteWord (w.extractLsb' 8 2) (w.extractLsb' 0 8) := by
  revert w; decide

end Sys2Proof
end

