-- ==== Sys2Proof/Laws/Ops.lean ====
section
/-! SUPPORT. One lemma per shared operation that says once what it can do. -/

namespace Sys2Proof.Machine

/-! ### Arithmetic -/

theorem satInc_le {v m : Nat} (h : v ≤ m) : satInc v m ≤ m := by
  unfold satInc; split <;> omega

theorem le_satInc (v m : Nat) : v ≤ satInc v m := by
  unfold satInc; split <;> omega

/-- Below the bound the saturating increment is the capped increment. -/
theorem satInc_eq_min {v m : Nat} (h : v ≤ m) : satInc v m = min m (v + 1) := by
  unfold satInc; split <;> omega

/-! ### The device's micro-operations -/

variable (d : Device)

theorem Device.fall_iff : d.fall = true ↔ d.prev = true ∧ d.cur = false := by
  simp [Device.fall]

theorem Device.levelEq_iff : d.levelEq = true ↔ d.cur = d.prev := by
  simp [Device.levelEq]

theorem Device.lastSlot_iff : d.lastSlot = true ↔ d.idx = .low1 := by
  simp [Device.lastSlot]

theorem Device.holdDone_iff : d.holdDone = true ↔ d.hold ≤ 1 := by
  simp [Device.holdDone]

theorem Device.lineOverride_iff : d.lineOverride = true ↔ d.st = .holding := by
  simp [Device.lineOverride]

/-- A press takes abort entry, no press the state's own action. -/
theorem Device.unlessPressed_cases (p : Bool) (own : Device × List Byte) :
    (p = true ∧ d.unlessPressed p own = ({ d with st := .abort }, [])) ∨
    (p = false ∧ d.unlessPressed p own = own) := by
  cases p
  · exact .inr ⟨rfl, rfl⟩
  · exact .inl ⟨rfl, rfl⟩

/-- Counting writes the slot of `idx` and nothing else. -/
theorem Device.countSlot_cases (c : Config) :
    (d.idx = .low0 ∧ d.countSlot c = { d with low0 := satInc d.low0 c.tickMax }) ∨
    (d.idx = .high0 ∧ d.countSlot c = { d with high0 := satInc d.high0 c.tickMax }) ∨
    (d.idx = .low1 ∧ d.countSlot c = { d with low1 := satInc d.low1 c.tickMax }) := by
  rcases h : d.idx <;> simp [Device.countSlot, h, Device.setMeas, Device.meas]

/-- Advancing selects the next slot and loads it with 1; the slot left keeps its value. -/
theorem Device.advance_cases :
    (d.idx = .low0 ∧ d.advance = { d with idx := .high0, high0 := 1 }) ∨
    (d.idx = .high0 ∧ d.advance = { d with idx := .low1, low1 := 1 }) ∨
    (d.idx = .low1 ∧ d.advance = { d with idx := .low1, low1 := 1 }) := by
  rcases h : d.idx <;> simp [Device.advance, h, Device.setMeas, MeasIdx.next]

/-- The countdown either clears and leaves `Holding`, or takes one off and stays. -/
theorem Device.countDown_cases :
    (d.hold ≤ 1 ∧ d.countDown = { d with hold := 0, st := .holdingDone }) ∨
    (1 < d.hold ∧ d.countDown = { d with hold := d.hold - 1, st := .holding }) := by
  by_cases h : d.hold ≤ 1
  · exact .inl ⟨h, by simp [Device.countDown, Device.holdDone, h]⟩
  · exact .inr ⟨by omega, by simp [Device.countDown, Device.holdDone, h]⟩

/-! ### Digits -/

/-- Enough fuel is enough: the digits do not depend on it. -/
theorem digitsUpTo_fuel {f g v : Nat} (hf : v < 16 ^ (f + 1)) (hg : v < 16 ^ (g + 1)) :
    digitsUpTo f v = digitsUpTo g v := by
  induction f generalizing g v with
  | zero =>
    have h : v < 16 := by simpa using hf
    cases g with
    | zero => rfl
    | succ g => simp [digitsUpTo, h]
  | succ f ih =>
    cases g with
    | zero =>
      have h : v < 16 := by simpa using hg
      simp [digitsUpTo, h]
    | succ g =>
      simp only [digitsUpTo]
      split
      · rfl
      · have hf' : v / 16 < 16 ^ (f + 1) := Nat.div_lt_of_lt_mul (by rw [Nat.pow_succ] at hf; omega)
        have hg' : v / 16 < 16 ^ (g + 1) := Nat.div_lt_of_lt_mul (by rw [Nat.pow_succ] at hg; omega)
        rw [ih hf' hg']

/-- The digit list is what any sufficient number of steps gives. -/
theorem digits_eq_upTo {f v : Nat} (h : v < 16 ^ (f + 1)) : digits v = digitsUpTo f v :=
  digitsUpTo_fuel (Nat.lt_of_lt_of_le (Nat.lt_pow_self (by omega)) (Nat.pow_le_pow_right (by omega) (by omega))) h

theorem digits_ne_nil (v : Nat) : digits v ≠ [] := by
  unfold digits
  cases v with
  | zero => simp [digitsUpTo]
  | succ v => simp only [digitsUpTo]; split <;> simp

/-- A value below 16 is its own digit. -/
theorem digits_of_lt {v : Nat} (h : v < 16) : digits v = [BitVec.ofNat 4 v] := by
  rw [digits_eq_upTo (f := 0) (by simpa using h)]; rfl

/-- From 16 on, the low digit comes first and the rest is the digits of the quotient. -/
theorem digits_of_le {v : Nat} (h : 16 ≤ v) : digits v = BitVec.ofNat 4 v :: digits (v / 16) := by
  obtain ⟨m, rfl⟩ : ∃ m, v = m + 1 := ⟨v - 1, by omega⟩
  have hlt : m + 1 < 16 ^ (m + 1) := Nat.lt_pow_self (by omega)
  rw [show digits (m + 1) = digitsUpTo (m + 1) (m + 1) from rfl, digitsUpTo, if_neg (by omega),
    digits_eq_upTo (f := m) (by omega)]

/-! ### The decoder -/

variable (c : Config)

theorem decodeFrom_nil (S : Decoder) : decodeFrom c S [] = (S, []) := rfl

theorem decodeFrom_cons (S : Decoder) (b : Byte) (bs : List Byte) :
    decodeFrom c S (b :: bs) =
      ((decodeFrom c (decStep c S b).1 bs).1, (decStep c S b).2 ++ (decodeFrom c (decStep c S b).1 bs).2) := rfl

/-- Running over a concatenation is running over its parts. -/
theorem decodeFrom_append (S : Decoder) (bs cs : List Byte) :
    decodeFrom c S (bs ++ cs) =
      ((decodeFrom c (decodeFrom c S bs).1 cs).1,
       (decodeFrom c S bs).2 ++ (decodeFrom c (decodeFrom c S bs).1 cs).2) := by
  induction bs generalizing S with
  | nil => simp [decodeFrom_nil]
  | cons b bs ih => simp [decodeFrom_cons, ih, List.append_assoc]

/-- Digit bytes taken in `Training` pile up in `pending`, with no event. -/
theorem decodeFrom_digits (p : List Nibble) (dn : List U32) (ns : List Nibble) :
    decodeFrom c { phase := .training, pending := p, done := dn } (ns.map nibbleByte) =
      ({ phase := .training, pending := p ++ ns, done := dn }, []) := by
  induction ns generalizing p with
  | nil => simp [decodeFrom_nil]
  | cons n ns ih =>
    simp [decodeFrom_cons, decStep, Decoder.appendNibble, ih]

/-! ### What a received byte leaves alone -/

variable (s : State) (b : Byte)

@[simp] theorem State.receive_cfg : (s.receive b).cfg = s.cfg := rfl
@[simp] theorem State.receive_dev : (s.receive b).dev = s.dev := rfl
@[simp] theorem State.receive_tc : (s.receive b).tc = s.tc := rfl
@[simp] theorem State.receive_dec : (s.receive b).dec = (decStep s.cfg s.dec b).1 := rfl
@[simp] theorem State.receive_ports : (s.receive b).ports = s.ports := rfl
@[simp] theorem State.receive_out : (s.receive b).out = s.out := rfl
@[simp] theorem State.receive_stream : (s.receive b).stream = s.stream := rfl
@[simp] theorem State.receive_channel : (s.receive b).channel = s.channel := rfl
@[simp] theorem State.receive_events : (s.receive b).events = s.events ++ (decStep s.cfg s.dec b).2 := rfl
@[simp] theorem State.receive_tick : (s.receive b).tick = s.tick := rfl
@[simp] theorem State.receive_stimulus : (s.receive b).stimulus = s.stimulus := rfl
@[simp] theorem State.receive_freeIdx : (s.receive b).freeIdx = s.freeIdx := rfl

end Sys2Proof.Machine
end

