-- ==== Sys2Proof/Laws/PerInstr.lean ====
section
/-! SUPPORT. Per operation: the word the encoder writes meets the mask and the match value of the operation's row
of spec/opcode_table.json, with the markers that table shows (30_encoding.md R95). -/

namespace Sys2Proof

/-- The bits of a selector word, numbered as the table numbers them. -/
def Selector.bits : Selector → Nat
  | .tcCmd w => w.toNat
  | .tcRead => 0
  | .encFn w _ => w.toNat
  | .fsmState w => w.toNat
  | .decByte w _ => w.toNat
  | .wireByte b => b.toNat

/-- The `mask` and `match` of the operation's row. -/
def Instr.tableRow : Instr → Nat × Nat
  | .tcNop => (0x3, 0x0)
  | .tcTick => (0x3, 0x1)
  | .tcReset _ => (0x2, 0x2)
  | .tcValue => (0x0, 0x0)
  | .encMeasurement _ => (0x1, 0x0)
  | .encEndOfTraining => (0x1, 0x1)
  | .fsmIdle => (0x7, 0x0)
  | .fsmTrainWait => (0x7, 0x1)
  | .fsmTrainCount => (0x7, 0x2)
  | .fsmStretchWait => (0x7, 0x3)
  | .fsmHolding => (0x7, 0x4)
  | .fsmHoldingDone => (0x7, 0x5)
  | .fsmAbort => (0x7, 0x6)
  | .decIdleStart => (0x3FF, 0x0F0)
  | .decIdleOther _ => (0x300, 0x000)
  | .decTrainingNibble _ => (0x3F0, 0x100)
  | .decTrainingMeasuredGroup => (0x3FF, 0x1F1)
  | .decTrainingMeasuredBare => (0x3FF, 0x1F1)
  | .decTrainingFinish => (0x3FF, 0x1F2)
  | .decTrainingOther _ => (0x300, 0x100)
  | .decStretchingFinish => (0x3FF, 0x2F2)
  | .decStretchingOther _ => (0x300, 0x200)
  | .wireNibble _ => (0xF0, 0x00)
  | .wireStart => (0xFF, 0xF0)
  | .wireMeasured => (0xFF, 0xF1)
  | .wireFinish => (0xFF, 0xF2)

end Sys2Proof

namespace Sys2Proof.Laws.TableRow

/-- The encoded word of a well-formed operation agrees with its row on the bits the row fixes. -/
def Statement (i : Instr) : Prop :=
  i.wellFormed Config.ref = true → (encode Config.ref i).bits &&& i.tableRow.1 = i.tableRow.2

/-- Over all bytes `b`, a word `{phase, b}` keeps the phase under the mask of a row that fixes it alone. -/
theorem phase_bits (p : BitVec 2) (b : Byte) : (decByteWord p b).toNat &&& 0x300 = p.toNat * 256 := by
  revert p b; decide

/-- A digit byte has its upper four bits zero. -/
theorem nibble_bits (n : Nibble) : (nibbleByte n).toNat &&& 0xF0 = 0 := by
  revert n; decide

/-- A digit byte met in `Training` has the row's six fixed bits. -/
theorem training_nibble_bits (n : Nibble) : (decByteWord 1#2 (nibbleByte n)).toNat &&& 0x3F0 = 0x100 := by
  revert n; decide

theorem tcNop : Statement .tcNop := fun _ => rfl
theorem tcTick : Statement .tcTick := fun _ => rfl
theorem tcReset (en : Bool) : Statement (.tcReset en) := by
  cases en <;> exact fun _ => rfl
theorem tcValue : Statement .tcValue := fun _ => rfl
theorem encMeasurement (value : U32) : Statement (.encMeasurement value) := fun _ => by
  simp [encode, Selector.bits, Instr.tableRow]
theorem encEndOfTraining : Statement .encEndOfTraining := fun _ => rfl
theorem fsmIdle : Statement .fsmIdle := fun _ => rfl
theorem fsmTrainWait : Statement .fsmTrainWait := fun _ => rfl
theorem fsmTrainCount : Statement .fsmTrainCount := fun _ => rfl
theorem fsmStretchWait : Statement .fsmStretchWait := fun _ => rfl
theorem fsmHolding : Statement .fsmHolding := fun _ => rfl
theorem fsmHoldingDone : Statement .fsmHoldingDone := fun _ => rfl
theorem fsmAbort : Statement .fsmAbort := fun _ => rfl
theorem decIdleStart : Statement .decIdleStart := fun _ => rfl
theorem decIdleOther (b : Byte) : Statement (.decIdleOther b) := fun _ => phase_bits 0#2 b
theorem decTrainingNibble (n : Nibble) : Statement (.decTrainingNibble n) := fun _ => training_nibble_bits n
theorem decTrainingMeasuredGroup : Statement .decTrainingMeasuredGroup := fun _ => rfl
theorem decTrainingMeasuredBare : Statement .decTrainingMeasuredBare := fun _ => rfl
theorem decTrainingFinish : Statement .decTrainingFinish := fun _ => rfl
theorem decTrainingOther (b : Byte) : Statement (.decTrainingOther b) := fun _ => phase_bits 1#2 b
theorem decStretchingFinish : Statement .decStretchingFinish := fun _ => rfl
theorem decStretchingOther (b : Byte) : Statement (.decStretchingOther b) := fun _ => phase_bits 2#2 b
theorem wireNibble (n : Nibble) : Statement (.wireNibble n) := fun _ => nibble_bits n
theorem wireStart : Statement .wireStart := fun _ => rfl
theorem wireMeasured : Statement .wireMeasured := fun _ => rfl
theorem wireFinish : Statement .wireFinish := fun _ => rfl

end Sys2Proof.Laws.TableRow
end

