-- ==== Sys2Proof/Laws/Step.lean ====
section
/-! SUPPORT. One lemma per stimulus that says what a step on it does, and the list of all of them. -/

namespace Sys2Proof.Machine

/-- The operation that the state register selects (R2, R85). -/
def FsmState.operation : FsmState → Instr
  | .idle => .fsmIdle
  | .trainWait => .fsmTrainWait
  | .trainCount => .fsmTrainCount
  | .stretchWait => .fsmStretchWait
  | .holding => .fsmHolding
  | .holdingDone => .fsmHoldingDone
  | .abort => .fsmAbort

theorem decode_stateCode (c : Config) (st : FsmState) : decode c (.fsmState st.code) = .ok st.operation := by
  cases st <;> rfl

theorem decode_command (c : Config) (r e : Bool) :
    decode c (.tcCmd (BitVec.ofBool r ++ BitVec.ofBool e)) =
      .ok (if r then .tcReset e else if e then .tcTick else .tcNop) := by
  cases r <;> cases e <;> rfl

@[simp] theorem dropStimulus_cfg (s : State) : s.dropStimulus.cfg = s.cfg := by
  unfold State.dropStimulus; split <;> rfl
@[simp] theorem dropStimulus_dev (s : State) : s.dropStimulus.dev = s.dev := by
  unfold State.dropStimulus; split <;> rfl
@[simp] theorem dropStimulus_tc (s : State) : s.dropStimulus.tc = s.tc := by
  unfold State.dropStimulus; split <;> rfl
@[simp] theorem dropStimulus_dec (s : State) : s.dropStimulus.dec = s.dec := by
  unfold State.dropStimulus; split <;> rfl
@[simp] theorem dropStimulus_ports (s : State) : s.dropStimulus.ports = s.ports := by
  unfold State.dropStimulus; split <;> rfl
@[simp] theorem dropStimulus_out (s : State) : s.dropStimulus.out = s.out := by
  unfold State.dropStimulus; split <;> rfl
@[simp] theorem dropStimulus_stream (s : State) : s.dropStimulus.stream = s.stream := by
  unfold State.dropStimulus; split <;> rfl
@[simp] theorem dropStimulus_channel (s : State) : s.dropStimulus.channel = s.channel := by
  unfold State.dropStimulus; split <;> rfl
@[simp] theorem dropStimulus_events (s : State) : s.dropStimulus.events = s.events := by
  unfold State.dropStimulus; split <;> rfl
@[simp] theorem dropStimulus_tick (s : State) : s.dropStimulus.tick = s.tick := by
  unfold State.dropStimulus; split <;> rfl

/-- With a stimulus pending it is the one taken. -/
theorem nextStimulus_cons {s : State} {e : Stimulus} {rest : List Stimulus} (h : s.stimulus = e :: rest) :
    s.nextStimulus = e ∧ s.dropStimulus = { s with stimulus := rest } := by
  simp [State.nextStimulus, State.dropStimulus, h]

variable {s : State}

/-- A tick samples the ports and runs the operation of `st`. -/
theorem step_tick {l p : Bool} (h : s.nextStimulus = .tick l p) :
    step s = exec s.dev.st.operation (s.dropStimulus.sample l p) := by
  simp [step, State.fetch, h, State.present, decode_stateCode]

/-- With nothing in the channel the decoder waits. -/
theorem step_deliver_nil (h : s.nextStimulus = .deliver) (hc : s.channel = []) : step s = .next s.dropStimulus := by
  simp [step, State.fetch, h, State.present, hc]

/-- What `dec_byte` selects, run, is the decoder's step. -/
theorem exec_decByte (b : Byte) (t : State) :
    ∃ i, decode t.cfg (t.decByteSelector b) = .ok i ∧ exec i t = .next (t.receive b) := by
  rcases hp : t.dec.phase
  · refine ⟨decodeIdleByte t.cfg b, by simp [State.decByteSelector, decode, decodeDecByte, hp, Phase.code], ?_⟩
    rcases classify_cases t.cfg b with ⟨n, _, _, h⟩ | ⟨_, h⟩ | ⟨_, h⟩ | ⟨_, h⟩ | ⟨_, _, _, _, h⟩ <;>
      simp [decodeIdleByte, h, exec, execDecIdleStart, execDecIdleOther, State.receive, decStep, hp]
  · refine ⟨decodeTrainingByte t.cfg b t.dec.pending.isEmpty,
      by simp [State.decByteSelector, decode, decodeDecByte, hp, Phase.code], ?_⟩
    rcases classify_cases t.cfg b with ⟨n, _, _, h⟩ | ⟨_, h⟩ | ⟨_, h⟩ | ⟨_, h⟩ | ⟨_, _, _, _, h⟩ <;>
      cases hb : t.dec.pending.isEmpty <;>
      simp [decodeTrainingByte, h, exec, execDecTrainingNibble, execDecTrainingMeasuredGroup,
        execDecTrainingMeasuredBare, execDecTrainingFinish, execDecTrainingOther, State.receive, decStep, hp, hb]
  · refine ⟨decodeStretchingByte t.cfg b, by simp [State.decByteSelector, decode, decodeDecByte, hp, Phase.code], ?_⟩
    rcases classify_cases t.cfg b with ⟨n, _, _, h⟩ | ⟨_, h⟩ | ⟨_, h⟩ | ⟨_, h⟩ | ⟨_, _, _, _, h⟩ <;>
      simp [decodeStretchingByte, h, exec, execDecStretchingFinish, execDecStretchingOther, State.receive, decStep, hp]

/-- A delivery hands the oldest byte of the channel to the decoder. -/
theorem step_deliver_cons {b : Byte} {bs : List Byte} (h : s.nextStimulus = .deliver) (hc : s.channel = b :: bs) :
    step s = .next ((s.dropStimulus.leaveInChannel bs).receive b) := by
  obtain ⟨i, hi, hx⟩ := exec_decByte b (s.dropStimulus.leaveInChannel bs)
  have hi' : decode s.cfg (s.dropStimulus.decByteSelector b) = .ok i := by
    simpa [State.decByteSelector] using hi
  simp [step, State.fetch, h, State.present, hc, hi', hx]

/-- A byte presented from outside is handed to the decoder, whatever its class. -/
theorem step_wireByte {b : Byte} (h : s.nextStimulus = .wireByte b) : step s = .next (s.dropStimulus.receive b) := by
  rcases classify_cases s.cfg b with ⟨n, hb, _, _⟩ | ⟨hb, _⟩ | ⟨hb, _⟩ | ⟨hb, _⟩ | ⟨_, _, _, _, hcl⟩
  · simp [step, State.fetch, h, State.present, State.wireSelector, decode, decodeWireByte, exec,
      execWireNibble, hb]
  · simp [step, State.fetch, h, State.present, State.wireSelector, decode, decodeWireByte, exec,
      execWireStart, hb]
  · simp [step, State.fetch, h, State.present, State.wireSelector, decode, decodeWireByte, exec,
      execWireMeasured, hb]
  · simp [step, State.fetch, h, State.present, State.wireSelector, decode, decodeWireByte, exec,
      execWireFinish, hb]
  · obtain ⟨i, hi, hx⟩ := exec_decByte b s.dropStimulus
    rw [dropStimulus_cfg] at hi
    simp [step, State.fetch, h, State.present, State.wireSelector, hcl, hi, hx]

theorem step_tcCommand {r e : Bool} (h : s.nextStimulus = .tcCommand r e) :
    step s = .next (s.dropStimulus.tcStep r e) := by
  simp only [step, State.fetch, h, State.present, decode_command]
  cases r <;> cases e <;> rfl

theorem step_tcRead (h : s.nextStimulus = .tcRead) :
    step s = .next s.dropStimulus.readCounter := by
  simp [step, State.fetch, h, State.present, decode, exec, execTcValue]

theorem step_encodeMeasurement {v : U32} (h : s.nextStimulus = .encodeMeasurement v) :
    step s = .next (s.dropStimulus.returnEncoded (encodeMeasurement s.cfg v.toNat)) := by
  simp [step, State.fetch, h, State.present, decode, decodeEncFn, exec, execEncMeasurement]

theorem step_encodeEndOfTraining (h : s.nextStimulus = .encodeEndOfTraining) :
    step s = .next (s.dropStimulus.returnEncoded (encodeEndOfTraining s.cfg)) := by
  simp [step, State.fetch, h, State.present, decode, decodeEncFn, exec, execEncEndOfTraining]

theorem step_freshDecoder (h : s.nextStimulus = .freshDecoder) :
    step s = .next s.dropStimulus.renewDecoder := by
  simp [step, State.fetch, h, State.present]

/-- The rule of each FSM state, run, commits a pair of registers and burst. -/
theorem exec_operation (t : State) :
    ∃ r : Device × List Byte, exec t.dev.st.operation t = .next (t.commitTick r) := by
  rcases h : t.dev.st <;> exact ⟨_, rfl⟩

/-- Everything a step can do, by its stimulus. -/
theorem step_cases {t : State} (h : step s = .next t) :
    (∃ l p r, s.nextStimulus = .tick l p ∧
      exec s.dev.st.operation (s.dropStimulus.sample l p) = .next t ∧
      t = (s.dropStimulus.sample l p).commitTick r) ∨
    (s.nextStimulus = .deliver ∧ s.channel = [] ∧ t = s.dropStimulus) ∨
    (∃ b bs, s.nextStimulus = .deliver ∧ s.channel = b :: bs ∧
      t = (s.dropStimulus.leaveInChannel bs).receive b) ∨
    (∃ b, s.nextStimulus = .wireByte b ∧ t = s.dropStimulus.receive b) ∨
    (∃ r e, s.nextStimulus = .tcCommand r e ∧ t = s.dropStimulus.tcStep r e) ∨
    (s.nextStimulus = .tcRead ∧ t = s.dropStimulus.readCounter) ∨
    (∃ v, s.nextStimulus = .encodeMeasurement v ∧
      t = s.dropStimulus.returnEncoded (encodeMeasurement s.cfg v.toNat)) ∨
    (s.nextStimulus = .encodeEndOfTraining ∧ t = s.dropStimulus.returnEncoded (encodeEndOfTraining s.cfg)) ∨
    (s.nextStimulus = .freshDecoder ∧ t = s.dropStimulus.renewDecoder) := by
  rcases hn : s.nextStimulus with ⟨l, p⟩ | _ | b | ⟨r, e⟩ | _ | v | _ | _
  · rw [step_tick hn] at h
    obtain ⟨r, hr⟩ := exec_operation (s.dropStimulus.sample l p)
    simp only [State.sample_dev, dropStimulus_dev] at hr
    exact .inl ⟨l, p, r, rfl, h, by rw [hr] at h; cases h; rfl⟩
  · rcases hc : s.channel with _ | ⟨b, bs⟩
    · rw [step_deliver_nil hn hc] at h; cases h; simp
    · rw [step_deliver_cons hn hc] at h; cases h; simp
  · rw [step_wireByte hn] at h; cases h; simp
  · rw [step_tcCommand hn] at h; cases h
    exact .inr (.inr (.inr (.inr (.inl ⟨r, e, rfl, rfl⟩))))
  · rw [step_tcRead hn] at h; cases h; simp
  · rw [step_encodeMeasurement hn] at h; cases h; simp
  · rw [step_encodeEndOfTraining hn] at h; cases h; simp
  · rw [step_freshDecoder hn] at h; cases h; simp

/-! ### Runs -/

theorem runs_zero (s : State) : runs 0 s = .next s := rfl

/-- A run of one step more takes that step first. -/
theorem runs_succ {s t : State} (h : step s = .next t) (n : Nat) : runs (n + 1) s = runs n t := by
  simp only [runs, Host.Core.run]
  rw [show Sys2Proof.core.step s = .next t from h]

/-- A run that goes on from where a first one arrived. -/
theorem runs_add {s t : State} {m : Nat} (h : runs m s = .next t) (n : Nat) : runs (m + n) s = runs n t := by
  induction m generalizing s with
  | zero => rw [runs_zero] at h; cases h; rw [Nat.zero_add]
  | succ m ih =>
    simp only [runs, Host.Core.run] at h
    split at h
    · next u hu =>
      rw [show m + 1 + n = (m + n) + 1 by omega, runs_succ (t := u) hu]
      exact ih h
    · cases h
    · cases h

end Sys2Proof.Machine
end

