-- ==== Sys2Proof/Tests/Slice0.lean ====
section
/-! SUPPORT. The model's own tests: ill-formed terms and words refused, one word of every operation written out from
its encoding, single steps with results from spec/95_test_vectors.md, and a witness for the hypotheses of every
obligation that has some. -/

namespace Sys2Proof.Tests

open Sys2Proof Sys2Proof.Machine

/-! ### Helpers -/

/-- The next state, where there is one. -/
def stateOf : Host.Outcome State Fault Refusal → Option State
  | .next s => some s
  | .fault _ | .refused _ => none

/-- A small configuration: `W = 2`, `TICK_MAX = 3`, markers at the edges of their range, `max = 3`. -/
def small : Config where
  W := 2
  tickMax := 3
  start := 0x10#8
  measured := 0x11#8
  finish := 0xFF#8
  tcMax := 3
  ok := by decide

/-- A device written as in 95_test_vectors.md. -/
def dv (st : FsmState) (cur prev : Bool) (idx : MeasIdx) (a b c h : Nat) : Device :=
  { st := st, cur := cur, prev := prev, idx := idx, low0 := a, high0 := b, low1 := c, hold := h }

/-- The reset machine with the device `d` and the pending stimuli `es`. -/
def withDev (d : Device) (es : List Stimulus) : State := { State.reset with dev := d, stimulus := es }

/-- The reset machine with the decoder `d`, the channel `bs` and the pending stimuli `es`. -/
def withDec (d : Decoder) (bs : List Byte) (es : List Stimulus) : State :=
  { State.reset with dec := d, stream := bs, channel := bs, stimulus := es }

/-- The small machine with the TickCounter at `n` and the pending stimuli `es`. -/
def withCount (n : Nat) (es : List Stimulus) : State :=
  { State.reset with cfg := small, tc := { count := n }, stimulus := es }

/-- One tick: next device, override, burst. -/
def tickOf (d : Device) (l t : Bool) : Option (Device × Bool × List Byte) :=
  (stateOf (step (withDev d [.tick l t]))).map fun s => (s.dev, s.out.lineOverrideEnable, s.out.burst)

/-- One delivered byte: next decoder, events, bytes left. -/
def byteOf (d : Decoder) (b : Byte) : Option (Decoder × List Event × List Byte) :=
  (stateOf (step (withDec d [b, 0xAA#8] [.deliver]))).map fun s => (s.dec, s.events, s.channel)

/-- One byte presented from outside: next decoder, events. -/
def wireOf (d : Decoder) (b : Byte) : Option (Decoder × List Event) :=
  (stateOf (step (withDec d [] [.wireByte b]))).map fun s => (s.dec, s.events)

/-- One command of the TickCounter, `max = 3`: next count. -/
def commandOf (n : Nat) (rst en : Bool) : Option Nat :=
  (stateOf (step (withCount n [.tcCommand rst en]))).map (·.tc.count)

/-- What a stand-alone encoder call gives back. -/
def encodedOf (e : Stimulus) : Option (List Byte) :=
  (stateOf (step (withDev Device.reset [e]))).map (·.out.encoded)

/-- The decoder in `Idle`, in `Training` and in `Stretching`. -/
def idleDec (d : List U32) : Decoder := { phase := .idle, pending := [], done := d }
def training (p : List Nibble) (d : List U32) : Decoder := { phase := .training, pending := p, done := d }
def stretching (d : List U32) : Decoder := { phase := .stretching, pending := [], done := d }

/-! ### Ill-formed terms are refused -/

/-- R182: `START` in `Idle` is the row before. -/
theorem test_ill_formed_idle_other : (Instr.decIdleOther Config.ref.start).wellFormed Config.ref = false := by decide

/-- R189: a digit, `MEASURED` and `FINISH` in `Training` are the rows before. -/
theorem test_ill_formed_training_other :
    (Instr.decTrainingOther 0x0F#8).wellFormed Config.ref = false ∧
    (Instr.decTrainingOther Config.ref.measured).wellFormed Config.ref = false ∧
    (Instr.decTrainingOther Config.ref.finish).wellFormed Config.ref = false := by decide

/-- R191: `FINISH` in `Stretching` is the row before. -/
theorem test_ill_formed_stretching_other :
    (Instr.decStretchingOther Config.ref.finish).wellFormed Config.ref = false := by decide

/-- R6 to R8: a zero or too wide `W`, a bound outside `1 .. 2^W - 1`, a marker below 0x10 and two equal markers. -/
theorem test_ill_formed_configuration :
    { small.toParams with W := 0, tickMax := 1 : Params }.valid = false ∧
    { small.toParams with W := 33 : Params }.valid = false ∧
    { small.toParams with tickMax := 0 : Params }.valid = false ∧
    { small.toParams with tickMax := 4 : Params }.valid = false ∧
    { small.toParams with start := 0x0F#8 : Params }.valid = false ∧
    { small.toParams with measured := 0x10#8 : Params }.valid = false ∧
    { small.toParams with finish := 0x11#8 : Params }.valid = false := by decide

/-- U6, R78: the unused codes and a byte of class `OTHER`. -/
theorem test_words_refused :
    decode Config.ref (.fsmState 0b111#3) = .error .unusedStateCode ∧
    decode Config.ref (.decByte 0b1100000000#10 true) = .error .unusedPhaseCode ∧
    decode Config.ref (.wireByte 0b00010000#8) = .error (.reservedWireByte 0x10#8) ∧
    decodeTableWord 8 0x55 = none ∧ decodeTableWord 16 0x300 = none := ⟨rfl, rfl, rfl, rfl, rfl⟩

/-! ### One word of every operation, written out from its encoding (R80, R85, R87, R92, R70) -/

theorem test_decode_tcNop : decode Config.ref (.tcCmd 0b00#2) = .ok (.tcNop) := rfl
theorem test_decode_tcTick : decode Config.ref (.tcCmd 0b01#2) = .ok (.tcTick) := rfl
theorem test_decode_tcReset : decode Config.ref (.tcCmd 0b10#2) = .ok (.tcReset false) := rfl
theorem test_decode_tcValue : decode Config.ref .tcRead = .ok (.tcValue) := rfl
theorem test_decode_encMeasurement : decode Config.ref (.encFn 0b0#1 0xDEADBEEF#32) = .ok (.encMeasurement 0xDEADBEEF#32) := rfl
theorem test_decode_encEndOfTraining : decode Config.ref (.encFn 0b1#1 0#32) = .ok (.encEndOfTraining) := rfl
theorem test_decode_fsmIdle : decode Config.ref (.fsmState 0b000#3) = .ok (.fsmIdle) := rfl
theorem test_decode_fsmTrainWait : decode Config.ref (.fsmState 0b001#3) = .ok (.fsmTrainWait) := rfl
theorem test_decode_fsmTrainCount : decode Config.ref (.fsmState 0b010#3) = .ok (.fsmTrainCount) := rfl
theorem test_decode_fsmStretchWait : decode Config.ref (.fsmState 0b011#3) = .ok (.fsmStretchWait) := rfl
theorem test_decode_fsmHolding : decode Config.ref (.fsmState 0b100#3) = .ok (.fsmHolding) := rfl
theorem test_decode_fsmHoldingDone : decode Config.ref (.fsmState 0b101#3) = .ok (.fsmHoldingDone) := rfl
theorem test_decode_fsmAbort : decode Config.ref (.fsmState 0b110#3) = .ok (.fsmAbort) := rfl
theorem test_decode_decIdleStart : decode Config.ref (.decByte 0b0011110000#10 true) = .ok (.decIdleStart) := rfl
theorem test_decode_decIdleOther : decode Config.ref (.decByte 0b0001010101#10 true) = .ok (.decIdleOther 0x55#8) := rfl
theorem test_decode_decTrainingNibble : decode Config.ref (.decByte 0b0100001010#10 false) = .ok (.decTrainingNibble 0xA#4) := rfl
theorem test_decode_decTrainingMeasuredGroup : decode Config.ref (.decByte 0b0111110001#10 false) = .ok (.decTrainingMeasuredGroup) := rfl
theorem test_decode_decTrainingMeasuredBare : decode Config.ref (.decByte 0b0111110001#10 true) = .ok (.decTrainingMeasuredBare) := rfl
theorem test_decode_decTrainingFinish : decode Config.ref (.decByte 0b0111110010#10 false) = .ok (.decTrainingFinish) := rfl
theorem test_decode_decTrainingOther : decode Config.ref (.decByte 0b0111110000#10 true) = .ok (.decTrainingOther 0xF0#8) := rfl
theorem test_decode_decStretchingFinish : decode Config.ref (.decByte 0b1011110010#10 true) = .ok (.decStretchingFinish) := rfl
theorem test_decode_decStretchingOther : decode Config.ref (.decByte 0b1000000011#10 true) = .ok (.decStretchingOther 0x03#8) := rfl
theorem test_decode_wireNibble : decode Config.ref (.wireByte 0b00000111#8) = .ok (.wireNibble 0x7#4) := rfl
theorem test_decode_wireStart : decode Config.ref (.wireByte 0b11110000#8) = .ok (.wireStart) := rfl
theorem test_decode_wireMeasured : decode Config.ref (.wireByte 0b11110001#8) = .ok (.wireMeasured) := rfl
theorem test_decode_wireFinish : decode Config.ref (.wireByte 0b11110010#8) = .ok (.wireFinish) := rfl

/-! ### One step: the TickCounter (V-T1, V-T2) -/

theorem test_tcNop_keeps : commandOf 2 false false = some 2 := by decide
theorem test_tcTick_counts : commandOf 2 false true = some 3 := by decide
theorem test_tcTick_saturates : commandOf 3 false true = some 3 := by decide
theorem test_tcReset_clears : commandOf 3 true false = some 0 := by decide
theorem test_tcReset_wins_over_tick : commandOf 1 true true = some 0 := by decide
theorem test_tcValue_reads :
    (stateOf (step (withCount 2 [.tcRead]))).map (fun s => (s.out.tcValue, s.tc.count)) = some (2, 2) := by decide

/-! ### One step: the encoder (V-N9, V-N14, V-N15) -/

theorem test_encMeasurement_three_digits :
    encodedOf (.encodeMeasurement 419#32) = some [0x03#8, 0x0A#8, 0x01#8, 0xF1#8] := by decide
theorem test_encMeasurement_largest :
    encodedOf (.encodeMeasurement 0xFFFFFFFF#32) =
      some [0x0F#8, 0x0F#8, 0x0F#8, 0x0F#8, 0x0F#8, 0x0F#8, 0x0F#8, 0x0F#8, 0xF1#8] := by decide
theorem test_encEndOfTraining : encodedOf .encodeEndOfTraining = some [0xF1#8] := by decide

/-! ### One step: the FSM (V-F vectors) -/

/-- V-F1. -/
theorem test_fsmIdle_waits :
    tickOf (dv .idle true true .low0 0 0 0 0) true false =
      some ((dv .idle true true .low0 0 0 0 0), false, []) := by decide
/-- V-F2. -/
theorem test_fsmIdle_press :
    tickOf (dv .idle false true .low1 4 3 4 4) false true =
      some ((dv .trainWait false false .low1 4 3 4 4), false, [0xF0#8]) := by decide
/-- V-F4. -/
theorem test_fsmTrainWait_fall :
    tickOf (dv .trainWait false true .low1 7 8 9 3) false false =
      some ((dv .trainCount false false .low0 1 1 1 3), false, []) := by decide
/-- V-F6. -/
theorem test_fsmTrainWait_rise :
    tickOf (dv .trainWait true false .low0 0 0 0 0) true false =
      some ((dv .trainWait true true .low0 0 0 0 0), false, []) := by decide
/-- V-F10. -/
theorem test_fsmTrainCount_second :
    tickOf (dv .trainCount false true .high0 5 419 1 0) false false =
      some ((dv .trainCount false false .low1 5 419 1 0), false, [0x03#8, 0x0A#8, 0x01#8, 0xF1#8]) := by decide
/-- V-F11. -/
theorem test_fsmTrainCount_third :
    tickOf (dv .trainCount true false .low1 5 419 16 0) true false =
      some ((dv .stretchWait true true .low1 5 419 16 0), false, [0x00#8, 0x01#8, 0xF1#8, 0xF1#8]) := by decide
/-- V-F20. -/
theorem test_fsmStretchWait_loads :
    tickOf (dv .stretchWait false true .low1 4294967295 4294967295 1 0) false false =
      some ((dv .holding false false .low1 4294967295 4294967295 1 8589934588), false, []) := by decide
/-- V-F19. -/
theorem test_fsmStretchWait_zero :
    tickOf (dv .stretchWait false true .low1 1 1 1 7) true false =
      some ((dv .holding true false .low1 1 1 1 0), false, []) := by decide
/-- V-F22. -/
theorem test_fsmHolding_counts :
    tickOf (dv .holding false false .low1 4 3 4 2) true false =
      some ((dv .holding true false .low1 4 3 4 1), true, []) := by decide
/-- V-F25. -/
theorem test_fsmHolding_press :
    tickOf (dv .holding false false .low1 4 3 4 1) false true =
      some ((dv .abort false false .low1 4 3 4 1), true, []) := by decide
/-- V-F26. -/
theorem test_fsmHoldingDone_waits :
    tickOf (dv .holdingDone false false .low1 4 3 4 0) true false =
      some ((dv .holdingDone true false .low1 4 3 4 0), false, []) := by decide
/-- V-F27. -/
theorem test_fsmHoldingDone_high :
    tickOf (dv .holdingDone true false .low1 4 3 4 0) false false =
      some ((dv .stretchWait false true .low1 4 3 4 0), false, []) := by decide
/-- V-F29. -/
theorem test_fsmAbort :
    tickOf (dv .abort false false .low1 4 3 4 4) true false =
      some ((dv .idle true false .low1 4 3 4 4), false, [0xF2#8]) := by decide
/-- V-F30. -/
theorem test_fsmAbort_ignores_press :
    tickOf (dv .abort true true .low0 3 1 1 0) true true =
      some ((dv .idle true true .low0 3 1 1 0), false, [0xF2#8]) := by decide

/-! ### One step: the decoder (V-D1, V-D2, V-D3, V-D4, V-D6, V-D8, V-D11, V-D12) -/

theorem test_decIdleStart : byteOf (idleDec [3#32]) 0xF0#8 = some (training [] [], [.startTraining], [0xAA#8]) := by decide
theorem test_decIdleOther :
    byteOf (idleDec [3#32]) 0x07#8 = some (idleDec [3#32], [.unhandled .idle 0x07#8], [0xAA#8]) := by decide
theorem test_decTrainingNibble :
    byteOf (training [3#4] [5#32]) 0x0A#8 = some (training [3#4, 0xA#4] [5#32], [], [0xAA#8]) := by decide
theorem test_decTrainingMeasuredGroup :
    byteOf (training [3#4, 0xA#4, 1#4] [5#32]) 0xF1#8 = some (training [] [5#32, 419#32], [], [0xAA#8]) := by decide
theorem test_decTrainingMeasuredGroup_modulo :
    byteOf (training [1#4, 0#4, 0#4, 0#4, 0#4, 0#4, 0#4, 0#4, 1#4] []) 0xF1#8 =
      some (training [] [1#32], [], [0xAA#8]) := by decide
theorem test_decTrainingMeasuredBare :
    byteOf (training [] [3#32]) 0xF1#8 =
      some (stretching [3#32], [.finishTraining [3#32], .startStretching], [0xAA#8]) := by decide
theorem test_decTrainingFinish :
    byteOf (training [7#4] [4#32]) 0xF2#8 = some (idleDec [], [.finishStretching], [0xAA#8]) := by decide
theorem test_decTrainingOther_start :
    byteOf (training [3#4] []) 0xF0#8 = some (training [3#4] [], [.unhandled .training 0xF0#8], [0xAA#8]) := by decide
theorem test_decTrainingOther_class_other :
    byteOf (training [3#4] []) 0x55#8 = some (training [3#4] [], [.unhandled .training 0x55#8], [0xAA#8]) := by decide
theorem test_decStretchingFinish :
    byteOf (stretching [3#32]) 0xF2#8 = some (idleDec [3#32], [.finishStretching], [0xAA#8]) := by decide
theorem test_decStretchingOther :
    byteOf (stretching [3#32]) 0xF1#8 =
      some (stretching [3#32], [.unhandled .stretching 0xF1#8], [0xAA#8]) := by decide

/-! ### One step: the wire symbols -/

theorem test_wireNibble : wireOf (training [3#4] []) 0x0A#8 = some (training [3#4, 0xA#4] [], []) := by decide
theorem test_wireStart : wireOf (idleDec []) 0xF0#8 = some (training [] [], [.startTraining]) := by decide
theorem test_wireMeasured : wireOf (training [3#4] []) 0xF1#8 = some (training [] [3#32], []) := by decide
theorem test_wireFinish : wireOf (idleDec []) 0xF2#8 = some (idleDec [], [.unhandled .idle 0xF2#8]) := by decide
theorem test_wire_class_other : wireOf (idleDec []) 0x55#8 = some (idleDec [], [.unhandled .idle 0x55#8]) := by decide

/-! ### Placing a table word -/

theorem test_withFetchWord_state_code :
    (stateOf (step (State.reset.withFetchWord 8 0b110))).map (fun s => (s.dev.st, s.stream)) =
      some (.idle, [0xF2#8]) := by decide
theorem test_withFetchWord_dec_byte :
    (stateOf (step (State.reset.withFetchWord 16 0b0111110001))).map (fun s => (s.dec, s.events, s.channel)) =
      some (stretching [], [.finishTraining [], .startStretching], []) := by decide
theorem test_withFetchWord_wire_byte :
    (stateOf (step (State.reset.withFetchWord 8 0b11110000))).map (fun s => (s.dec, s.events)) =
      some (training [] [], [.startTraining]) := by decide
theorem test_withFetchWord_rejected : State.reset.withFetchWord 8 0x55 = State.reset := by decide

/-! ### Witnesses: for each obligation with hypotheses, states and operands that meet them -/

theorem test_witness_DecodeEncodeRoundTrip :
    (Instr.decIdleOther 0x0F#8).wellFormed small = true ∧ (Instr.decIdleOther 0x11#8).wellFormed small = true ∧
    (Instr.decTrainingOther 0x10#8).wellFormed small = true ∧ (Instr.decTrainingOther 0xFE#8).wellFormed small = true ∧
    (Instr.decStretchingOther 0xFE#8).wellFormed small = true ∧ (Instr.tcReset true).wellFormed small = true := by decide

theorem test_witness_EncodeDecodeRoundTrip :
    decode small (.tcCmd 0b11#2) = .ok (.tcReset true) ∧
    decode small (.encFn 1#1 5#32) = .ok .encEndOfTraining ∧ decode small (.encFn 0#1 5#32) = .ok (.encMeasurement 5#32) ∧
    decode small (.fsmState 6#3) = .ok .fsmAbort ∧
    decode small (.decByte 0b0100010001#10 false) = .ok .decTrainingMeasuredGroup ∧
    decode small (.decByte 0b0100010001#10 true) = .ok .decTrainingMeasuredBare ∧
    decode small (.decByte 0b0011111111#10 true) = .ok (.decIdleOther 0xFF#8) ∧
    decode small (.wireByte 0x0F#8) = .ok (.wireNibble 15#4) := ⟨rfl, rfl, rfl, rfl, rfl, rfl, rfl, rfl⟩

theorem test_witness_SelectorRows :
    0x0F#8 ≠ small.start ∧ (16 ≤ (0x10#8).toNat ∧ 0x10#8 ≠ small.measured ∧ 0x10#8 ≠ small.finish) ∧
    (16 ≤ (0xFE#8).toNat ∧ 0xFE#8 ≠ small.measured ∧ 0xFE#8 ≠ small.finish) ∧ 0x11#8 ≠ small.finish := by decide

theorem test_witness_ReservedWordsRejected :
    decode small (.fsmState 7#3) = .error .unusedStateCode ∧
    decode small (.decByte 768#10 true) = .error .unusedPhaseCode ∧
    decode small (.decByte 1023#10 true) = .error .unusedPhaseCode ∧
    decode small (.decByte 767#10 true) = .ok .decStretchingFinish ∧
    decode small (.wireByte 0x12#8) = .error (.reservedWireByte 0x12#8) := ⟨rfl, rfl, rfl, rfl, rfl⟩

theorem test_witness_StepRunsPresentedOperation_tick :
    ∃ s : State, s.stimulus = .tick true false :: [] ∧ decode s.cfg (.fsmState s.dev.st.code) = .ok .fsmHolding :=
  ⟨withDev (dv .holding true true .low1 4 3 4 5) [.tick true false], rfl, rfl⟩

theorem test_witness_StepRunsPresentedOperation_deliver :
    ∃ s : State, s.stimulus = .deliver :: [] ∧ s.channel = 0xF1#8 :: [] ∧
      decode s.cfg (.decByte (decByteWord s.dec.phase.code 0xF1#8) (decide (s.dec.pending = []))) =
        .ok .decTrainingMeasuredGroup :=
  ⟨withDec (training [1#4] []) [0xF1#8] [.deliver], rfl, rfl, rfl⟩

theorem test_witness_StepRunsPresentedOperation_deliver_nothing :
    ∃ s : State, s.stimulus = .deliver :: [] ∧ s.channel = [] := ⟨withDec (idleDec []) [] [.deliver], rfl, rfl⟩

theorem test_witness_StepRunsPresentedOperation_wireByte :
    ∃ s : State, s.stimulus = .wireByte 0x0F#8 :: [] ∧ decode s.cfg (.wireByte 0x0F#8) = .ok (.wireNibble 15#4) :=
  ⟨withDec (idleDec []) [] [.wireByte 0x0F#8], rfl, rfl⟩

theorem test_witness_StepRunsPresentedOperation_wireByte_other :
    ∃ s : State, s.stimulus = .wireByte 0x10#8 :: [] ∧ decode s.cfg (.wireByte 0x10#8) = .error (.reservedWireByte 0x10#8) ∧
      decode s.cfg (.decByte (decByteWord s.dec.phase.code 0x10#8) (decide (s.dec.pending = []))) =
        .ok (.decIdleOther 0x10#8) :=
  ⟨withDec (idleDec []) [] [.wireByte 0x10#8], rfl, rfl, rfl⟩

theorem test_witness_StepRunsPresentedOperation_counter :
    ∃ s t : State, s.stimulus = .tcCommand true true :: [] ∧
      decode s.cfg (.tcCmd (BitVec.ofBool true ++ BitVec.ofBool true)) = .ok (.tcReset true) ∧
      t.stimulus = .tcRead :: [] ∧ decode t.cfg .tcRead = .ok .tcValue :=
  ⟨withCount 2 [.tcCommand true true], withCount 2 [.tcRead], rfl, rfl, rfl, rfl⟩

theorem test_witness_StepRunsPresentedOperation_encoder :
    ∃ s t : State, s.stimulus = .encodeMeasurement 5#32 :: [] ∧ decode s.cfg (.encFn 0#1 5#32) = .ok (.encMeasurement 5#32) ∧
      t.stimulus = .encodeEndOfTraining :: [] ∧ decode t.cfg (.encFn 1#1 0#32) = .ok .encEndOfTraining :=
  ⟨withDec (idleDec []) [] [.encodeMeasurement 5#32], withDec (idleDec []) [] [.encodeEndOfTraining], rfl, rfl, rfl, rfl⟩

theorem test_witness_StepRunsPresentedOperation_no_operation :
    ∃ s t : State, s.stimulus = .freshDecoder :: [] ∧ t.stimulus = [] :=
  ⟨withDec (training [1#4] []) [] [.freshDecoder], State.reset, rfl, rfl⟩

theorem test_witness_TickIsReferenceListing :
    ∃ s : State, s.stimulus = .tick false true :: [.deliver] :=
  ⟨withDev (dv .trainCount true false .low1 3 3 3 0) [.tick false true, .deliver], rfl⟩

theorem test_witness_DecoderFollowsTransitionTable :
    ∃ s t : State, (s.stimulus = .deliver :: [] ∧ s.channel = 0xF2#8 :: [0x01#8]) ∧ t.stimulus = .wireByte 0xF2#8 :: [] :=
  ⟨withDec (training [] []) [0xF2#8, 0x01#8] [.deliver], withDec (training [] []) [] [.wireByte 0xF2#8], ⟨rfl, rfl⟩, rfl⟩

theorem test_witness_ConfigurationNeverChanges :
    ∃ s t : State, step s = .next t ∧ s.cfg = small := ⟨withCount 3 [.tcCommand false true], _, rfl, rfl⟩

theorem test_witness_AgentsShareNoState :
    ∃ s t u v : State, (step s = .next t ∧ ∀ l p, s.nextStimulus ≠ .tick l p) ∧
      (step u = .next v ∧ u.nextStimulus ≠ .deliver ∧ (∀ b, u.nextStimulus ≠ .wireByte b) ∧
        u.nextStimulus ≠ .freshDecoder ∧ ∀ r e, u.nextStimulus ≠ .tcCommand r e) :=
  ⟨withDec (idleDec []) [0x01#8] [.deliver], _, withDev (dv .abort true true .low0 0 0 0 0) [.tick true true], _,
    ⟨rfl, (fun _ _ h => nomatch h)⟩,
    ⟨rfl, (fun h => nomatch h), (fun _ h => nomatch h), (fun h => nomatch h), (fun _ _ h => nomatch h)⟩⟩

/-- A tick that takes the device from `d` to another state. -/
theorem enters {d : Device} {l p : Bool} {st : FsmState}
    (h : (tickOf d l p).map (fun r => r.1.st) = some st) (hne : st ≠ d.st) :
    ∃ s t : State, step s = .next t ∧ t.dev.st ≠ s.dev.st ∧ t.dev.st = st := by
  refine ⟨withDev d [.tick l p], ?_⟩
  rcases hs : step (withDev d [.tick l p]) with t | r | r <;> simp [tickOf, stateOf, hs] at h
  exact ⟨t, rfl, by rw [h]; exact hne, h⟩

theorem test_witness_StatesEnteredOnlyAsListed :
    (∃ s t : State, step s = .next t ∧ t.dev.st ≠ s.dev.st ∧ t.dev.st = .idle) ∧
    (∃ s t : State, step s = .next t ∧ t.dev.st ≠ s.dev.st ∧ t.dev.st = .trainWait) ∧
    (∃ s t : State, step s = .next t ∧ t.dev.st ≠ s.dev.st ∧ t.dev.st = .trainCount) ∧
    (∃ s t : State, step s = .next t ∧ t.dev.st ≠ s.dev.st ∧ t.dev.st = .stretchWait) ∧
    (∃ s t : State, step s = .next t ∧ t.dev.st ≠ s.dev.st ∧ t.dev.st = .holding) ∧
    (∃ s t : State, step s = .next t ∧ t.dev.st ≠ s.dev.st ∧ t.dev.st = .holdingDone) ∧
    (∃ s t : State, step s = .next t ∧ t.dev.st ≠ s.dev.st ∧ t.dev.st = .abort) :=
  ⟨enters (d := dv .abort true true .low0 0 0 0 0) (l := true) (p := false) (by decide) (by decide),
   enters (d := dv .idle true true .low0 0 0 0 0) (l := true) (p := true) (by decide) (by decide),
   enters (d := dv .trainWait false true .low0 0 0 0 0) (l := true) (p := false) (by decide) (by decide),
   enters (d := dv .trainCount true false .low1 1 1 1 0) (l := true) (p := false) (by decide) (by decide),
   enters (d := dv .stretchWait false true .low1 1 1 1 0) (l := true) (p := false) (by decide) (by decide),
   enters (d := dv .holding true true .low1 1 1 1 1) (l := true) (p := false) (by decide) (by decide),
   enters (d := dv .holding true true .low1 1 1 1 1) (l := true) (p := true) (by decide) (by decide)⟩

theorem test_witness_OverrideExactlyInHolding :
    ∃ s t : State, s.nextStimulus = .tick false true ∧ step s = .next t ∧ s.dev.st = .holding :=
  ⟨withDev (dv .holding false false .low1 4 3 4 1) [.tick false true], _, rfl, rfl, rfl⟩

theorem test_witness_TickCounterClosedForm :
    ∃ s : State, s.tc.count = 0 ∧
      s.stimulus = [(false, true), (true, true), (false, true)].map (fun cmd => Stimulus.tcCommand cmd.1 cmd.2) ++ [.tcRead] :=
  ⟨withCount 0 [.tcCommand false true, .tcCommand true true, .tcCommand false true, .tcRead], rfl, rfl⟩

theorem test_witness_TickCounterStaysWithinMax :
    ∃ s t : State, s.counterInv ∧ step s = .next t ∧ s.tc.count = s.cfg.tcMax :=
  ⟨withCount 3 [.tcCommand false true], _, by unfold State.counterInv; decide, rfl, rfl⟩

theorem test_witness_EncMeasurementEmitsDigits :
    digits 15 = [15#4] ∧ digits 16 = [0#4, 1#4] ∧ (digits (16 / 16)) = [1#4] := by decide

theorem test_witness_DigitCountIsLeast :
    ndigits 0 = 1 ∧ ndigits 15 = 1 ∧ ndigits 16 = 2 ∧ ndigits 255 = 2 ∧ ndigits (2 ^ 32 - 1) = 8 ∧
      15 < 16 ^ 1 ∧ 2 ^ 32 - 1 < 2 ^ 32 := by decide

theorem test_witness_ValueOfDigitsIsIdentity :
    2 ^ 32 - 1 < 2 ^ 32 ∧ (value (digits (2 ^ 32 - 1))).toNat = 2 ^ 32 - 1 ∧ (value (digits 0)).toNat = 0 := by decide

/-- The state `d` with the inputs `l` and `p` sampled. -/
def sampled (d : Device) (l p : Bool) : State := (withDev d []).sample l p

theorem test_witness_IdleOperation :
    ∃ s t : State, (s.dev.st = .idle ∧ s.ports.trigger = true) ∧ t.dev.st = .idle ∧ t.ports.trigger = false :=
  ⟨sampled (dv .idle false true .low1 4 3 4 4) false true, sampled (dv .idle true true .low0 0 0 0 0) true false,
    ⟨rfl, rfl⟩, rfl, rfl⟩

theorem test_witness_TrainWaitOperation :
    ∃ s t u : State, (s.dev.st = .trainWait ∧ s.ports.trigger = true) ∧
      (t.dev.st = .trainWait ∧ t.ports.trigger = false ∧ t.dev.prev = true ∧ t.dev.cur = false) ∧
      u.dev.st = .trainWait ∧ u.ports.trigger = false ∧ ¬(u.dev.prev = true ∧ u.dev.cur = false) :=
  ⟨sampled (dv .trainWait false true .low1 7 8 9 3) false true, sampled (dv .trainWait false true .low1 7 8 9 3) false false,
    sampled (dv .trainWait true false .low0 0 0 0 0) true false, ⟨rfl, rfl⟩, ⟨rfl, rfl, rfl, rfl⟩, rfl, rfl, by decide⟩

theorem test_witness_TrainCountOperation :
    ∀ i : MeasIdx, ∃ s t u : State, (s.dev.st = .trainCount ∧ s.ports.trigger = true) ∧
      (t.dev.st = .trainCount ∧ t.ports.trigger = false ∧ t.dev.cur = t.dev.prev ∧ t.dev.idx = i ∧
        t.dev.meas i = t.cfg.tickMax) ∧
      u.dev.st = .trainCount ∧ u.ports.trigger = false ∧ u.dev.cur ≠ u.dev.prev ∧ u.dev.idx = i := by
  intro i
  refine ⟨sampled (dv .trainCount true false i 1 1 1 0) true true,
    sampled (dv .trainCount true true i 4294967295 4294967295 4294967295 0) true false,
    sampled (dv .trainCount true false i 1 1 1 0) true false, ⟨rfl, rfl⟩, ⟨rfl, rfl, rfl, rfl, ?_⟩, rfl, rfl, ?_, rfl⟩
  · cases i <;> rfl
  · exact fun h => nomatch h

theorem test_witness_StretchWaitOperation :
    ∃ s t u : State, (s.dev.st = .stretchWait ∧ s.ports.trigger = true) ∧
      (t.dev.st = .stretchWait ∧ t.ports.trigger = false ∧ (t.dev.prev = true ∧ t.dev.cur = false) ∧
        t.dev.low0 + t.dev.high0 = 1) ∧
      u.dev.st = .stretchWait ∧ u.ports.trigger = false ∧ ¬(u.dev.prev = true ∧ u.dev.cur = false) :=
  ⟨sampled (dv .stretchWait false true .low1 4 3 4 0) false true, sampled (dv .stretchWait false true .low1 1 0 0 7) false false,
    sampled (dv .stretchWait true true .low1 4 3 4 0) false false, ⟨rfl, rfl⟩, ⟨rfl, rfl, ⟨rfl, rfl⟩, rfl⟩, rfl, rfl, by decide⟩

theorem test_witness_HoldingOperation :
    ∃ s t u v : State, (s.dev.st = .holding ∧ s.ports.trigger = true) ∧
      (t.dev.st = .holding ∧ t.ports.trigger = false ∧ t.dev.hold = 0) ∧
      (u.dev.st = .holding ∧ u.ports.trigger = false ∧ u.dev.hold = 1) ∧
      v.dev.st = .holding ∧ v.ports.trigger = false ∧ v.dev.hold = 2 :=
  ⟨sampled (dv .holding false false .low1 4 3 4 1) false true, sampled (dv .holding true false .low1 1 1 1 0) false false,
    sampled (dv .holding true false .low1 4 3 4 1) true false, sampled (dv .holding false false .low1 4 3 4 2) true false,
    ⟨rfl, rfl⟩, ⟨rfl, rfl, rfl⟩, ⟨rfl, rfl, rfl⟩, rfl, rfl, rfl⟩

theorem test_witness_HoldingDoneOperation :
    ∃ s t u : State, (s.dev.st = .holdingDone ∧ s.ports.trigger = true) ∧
      (t.dev.st = .holdingDone ∧ t.ports.trigger = false ∧ t.dev.cur = true) ∧
      u.dev.st = .holdingDone ∧ u.ports.trigger = false ∧ u.dev.cur = false :=
  ⟨sampled (dv .holdingDone true true .low1 4 3 4 0) true true, sampled (dv .holdingDone true false .low1 4 3 4 0) false false,
    sampled (dv .holdingDone false false .low1 4 3 4 0) true false, ⟨rfl, rfl⟩, ⟨rfl, rfl, rfl⟩, rfl, rfl, rfl⟩

theorem test_witness_AbortOperation :
    ∃ s : State, s.dev.st = .abort ∧ s.ports.trigger = true :=
  ⟨sampled (dv .abort true true .low0 3 1 1 0) true true, rfl, rfl⟩

theorem test_witness_PressAbortsAndSuppressesAll :
    ∀ st : FsmState, st.abortable = true → ∃ s : State, s.stimulus = .tick false true :: [] ∧ s.dev.st = st ∧
      s.dev.st.abortable = true :=
  fun st h => ⟨withDev (dv st false true .low1 4 3 4 1) [.tick false true], rfl, rfl, h⟩

theorem test_abortable_states :
    FsmState.trainWait.abortable = true ∧ FsmState.trainCount.abortable = true ∧ FsmState.stretchWait.abortable = true ∧
    FsmState.holding.abortable = true ∧ FsmState.holdingDone.abortable = true ∧ FsmState.idle.abortable = false ∧
    FsmState.abort.abortable = false := by decide

theorem test_witness_DecIdleStartOperation :
    ∃ s : State, s.dec.phase = .idle ∧ s.dec.done = [3#32] := ⟨withDec (idleDec [3#32]) [] [], rfl, rfl⟩

theorem test_witness_UnexpectedBytesAreReported :
    ∃ s t u : State, (s.dec.phase = .idle ∧ 0xF1#8 ≠ s.cfg.start) ∧
      (t.dec.phase = .training ∧ 16 ≤ (0x10#8).toNat ∧ 0x10#8 ≠ t.cfg.measured ∧ 0x10#8 ≠ t.cfg.finish) ∧
      u.dec.phase = .stretching ∧ 0x0F#8 ≠ u.cfg.finish :=
  ⟨withDec (idleDec []) [] [], withDec (training [3#4] []) [] [], withDec (stretching []) [] [],
    ⟨rfl, by decide⟩, ⟨rfl, by decide, by decide, by decide⟩, rfl, by decide⟩

/-- The hypotheses of the four `Training` operations: a digit and `FINISH` (either state), a group (the first), a bare
`MEASURED` (the second). -/
theorem test_witness_DecTraining_operations :
    ∃ s t : State, (s.dec.phase = .training ∧ s.dec.pending ≠ []) ∧ t.dec.phase = .training ∧ t.dec.pending = [] :=
  ⟨withDec (training [3#4] []) [] [], withDec (training [] [3#32]) [] [], ⟨rfl, by decide⟩, rfl, rfl⟩

theorem test_witness_DecStretchingFinishOperation :
    ∃ s : State, s.dec.phase = .stretching := ⟨withDec (stretching [3#32]) [] [], rfl⟩

theorem test_witness_WireSymbolsRunDecoderRows :
    ∃ s t u v : State, s.dec.phase = .idle ∧ (t.dec.phase = .training ∧ t.dec.pending ≠ []) ∧
      (u.dec.phase = .training ∧ u.dec.pending = []) ∧ v.dec.phase = .stretching :=
  ⟨withDec (idleDec []) [] [], withDec (training [3#4] []) [] [], withDec (training [] []) [] [],
    withDec (stretching []) [] [], rfl, ⟨rfl, by decide⟩, ⟨rfl, rfl⟩, rfl⟩

/-- A device in the middle of a training, its accumulators at their bounds. -/
def midTraining : Device := dv .trainCount true true .high0 4294967295 4294967294 1 0

theorem midTraining_inv : midTraining.inv Config.ref := by
  refine ⟨?_, ?_, ?_, ?_, fun _ => ⟨?_, ?_, ?_⟩, fun _ => rfl⟩ <;> decide

theorem test_witness_DeviceInvariantKept :
    ∃ s t : State, s.dev.inv s.cfg ∧ step s = .next t := ⟨withDev midTraining [.tick true false], _, midTraining_inv, rfl⟩

/-- A device at the end of the longest training. -/
def fullHold : Device := dv .trainCount true false .low1 4294967295 4294967295 4294967295 8589934588

theorem test_witness_RegistersAndBurstsFit :
    ∃ s t : State, s.dev.inv s.cfg ∧ s.nextStimulus = .tick true false ∧ step s = .next t ∧ t.out.burst.length = 10 := by
  refine ⟨withDev fullHold [.tick true false], _, ?_, rfl, rfl, rfl⟩
  refine ⟨?_, ?_, ?_, ?_, fun _ => ⟨?_, ?_, ?_⟩, fun _ => rfl⟩ <;> decide

/-- The reset machine after a press, with its first byte still in the channel. -/
def pressed (es : List Stimulus) : State :=
  { State.reset with
    dev := { Device.reset with st := .trainWait }, stream := [0xF0#8], channel := [0xF0#8], stimulus := es }

theorem pressed_telemetryInv (es : List Stimulus) : (pressed es).telemetryInv := by
  have h : decodeFrom Config.ref Decoder.reset [0xF0#8] = (training [] [], [.startTraining]) := by decide
  refine ⟨?_, ?_⟩
  · intro e he
    change e ∈ (decodeFrom Config.ref Decoder.reset [0xF0#8]).2 at he
    rw [h] at he
    simp at he
    rw [he]; rfl
  · change (decodeFrom Config.ref Decoder.reset [0xF0#8]).1 = _
    rw [h]; rfl

theorem pressed_linkInv (es : List Stimulus) : (pressed es).linkInv := ⟨[], rfl, rfl⟩

theorem test_witness_TelemetryDecodesInStep :
    ∃ s t : State, s.telemetryInv ∧ step s = .next t ∧ s.stream ≠ [] :=
  ⟨pressed [.tick true true], _, pressed_telemetryInv _, rfl, by decide⟩

theorem test_witness_DecoderTakesStreamInOrder :
    ∃ s t : State, s.linkInv ∧ (∀ b, s.nextStimulus ≠ .wireByte b) ∧ s.nextStimulus ≠ .freshDecoder ∧ step s = .next t ∧
      s.channel ≠ [] :=
  ⟨pressed [.deliver], _, pressed_linkInv _, (fun _ h => nomatch h), (fun h => nomatch h), rfl, by decide⟩

theorem test_witness_NoUnhandledFromDevice :
    ∃ s : State, s.telemetryInv ∧ s.linkInv ∧ s.events = [.startTraining] := by
  refine ⟨{ pressed [] with channel := [], dec := training [] [], events := [.startTraining] },
    pressed_telemetryInv [], ⟨[0xF0#8], rfl, ?_⟩, rfl⟩
  decide

theorem test_witness_StaleRegistersNeverShow :
    ∃ s t s' t' : State, sameButStale s t ∧ step s = .next s' ∧ step t = .next t' ∧ s.dev ≠ t.dev := by
  refine ⟨withDev (dv .trainWait false true .low0 3 1 1 0) [.tick false false],
    withDev (dv .trainWait false true .low1 0 0 0 7) [.tick false false], _, _, ⟨rfl, rfl, rfl, rfl, ?_, ?_⟩, rfl, rfl, by decide⟩
  · intro h; cases h
  · intro h; cases h

theorem test_witness_LatchesHoldLastTwoSamples :
    ∃ s : State, s.stimulus = .tick true false :: .tick false true :: [] :=
  ⟨withDev Device.reset [.tick true false, .tick false true], rfl⟩

theorem test_witness_HoldingLastsItsDuration :
    ∃ s t : State,
      (s.dev.st = .holding ∧ s.stimulus = quietTicks [true] ++ [] ∧ [true].length = max s.dev.hold 1 ∧ s.dev.hold = 0) ∧
      t.dev.st = .holding ∧ t.stimulus = quietTicks [true, false] ++ [] ∧ [true, false].length = max t.dev.hold 1 :=
  ⟨withDev (dv .holding true false .low1 1 1 1 0) [.tick true false],
    withDev (dv .holding true false .low1 1 1 1 2) [.tick true false, .tick false false], ⟨rfl, rfl, rfl, rfl⟩, rfl, rfl, rfl⟩

theorem test_witness_MeasurementIsLevelDuration :
    ∀ i : MeasIdx, ∃ s : State, s.dev.st = .trainCount ∧ s.dev.cur = true ∧ s.dev.prev = true ∧
      s.dev.meas s.dev.idx = 1 ∧ s.dev.idx = i ∧ s.stimulus = quietTicks (List.replicate 0 true ++ [!true, true]) ++ [] := by
  intro i
  refine ⟨withDev (dv .trainCount true true i 1 1 1 0) [.tick false false, .tick true false], rfl, rfl, rfl, ?_, rfl, rfl⟩
  cases i <;> rfl

theorem test_witness_TrainingMeasuresThreeHalfPeriods :
    ∃ s : State, s.dev.st = .trainWait ∧ s.dev.cur = true ∧ 1 ≤ 1 ∧
      s.stimulus = quietTicks (List.replicate 1 false ++ List.replicate 1 true ++ List.replicate 1 false ++ [true, false]) ++ [] :=
  ⟨withDev (dv .trainWait true false .low0 0 0 0 0)
    [.tick false false, .tick true false, .tick false false, .tick true false, .tick false false], rfl, rfl, by decide, rfl⟩

theorem test_witness_HeldTriggerLoopsWithPeriodThree :
    ∃ s : State, s.dev.st = .idle ∧ s.stimulus = pressedTicks [true, false, true] ++ [] ∧ [true, false, true].length = 3 * 1 :=
  ⟨withDev Device.reset [.tick true true, .tick false true, .tick true true], rfl, rfl, rfl⟩

theorem test_witness_ShortestRestartIsTwoTicks :
    ∃ s : State, s.dev.st.abortable = true ∧
      s.stimulus = .tick true true :: .tick false true :: .tick true true :: [] :=
  ⟨withDev (dv .holdingDone true true .low1 4 3 4 0) [.tick true true, .tick false true, .tick true true], rfl, rfl⟩

end Sys2Proof.Tests
end

section
/-! The configuration is fixed when the core is constructed (00_scope.md R13). -/

namespace Sys2Proof.Machine

/-- The frame of a step at `cfg`. Whichever stimulus it takes, the next state is the state without that stimulus
after one operation (of the tick, the decoder, the TickCounter or the encoder), and none of these writes `cfg`. -/
theorem step_cfg {s t : State} (h : step s = .next t) : t.cfg = s.cfg := by
  rcases step_cases h with
    ⟨l, p, r, -, -, rfl⟩ | ⟨-, -, rfl⟩ | ⟨b, bs, -, -, rfl⟩ | ⟨b, -, rfl⟩ | ⟨r, e, -, rfl⟩ | ⟨-, rfl⟩ |
    ⟨v, -, rfl⟩ | ⟨-, rfl⟩ | ⟨-, rfl⟩
  · rw [State.commitTick_cfg, State.sample_cfg, dropStimulus_cfg]
  · rw [dropStimulus_cfg]
  · rw [State.receive_cfg, State.leaveInChannel_cfg, dropStimulus_cfg]
  · rw [State.receive_cfg, dropStimulus_cfg]
  · rw [State.tcStep_cfg, dropStimulus_cfg]
  · rw [State.readCounter_cfg, dropStimulus_cfg]
  · rw [State.returnEncoded_cfg, dropStimulus_cfg]
  · rw [State.returnEncoded_cfg, dropStimulus_cfg]
  · rw [State.renewDecoder_cfg, dropStimulus_cfg]

/-- Settles O13, by the frame of a step at `cfg`. -/
theorem configurationNeverChanges : Obligations.ConfigurationNeverChanges := by
  unfold Obligations.ConfigurationNeverChanges
  exact fun _ _ h => step_cfg h

end Sys2Proof.Machine
end

section
/-! The events of one byte (30_encoding.md R91, 46_telemetry_decoder.md R180 to R191). -/

namespace Sys2Proof.Machine

variable (c : Config) {d : Decoder} (b : Byte)

/-! ### The events of the decoder's operations -/

@[simp] theorem Decoder.startTraining_events : d.startTraining.2 = [.startTraining] := rfl
@[simp] theorem Decoder.reportUnhandled_events (ph : Phase) : (d.reportUnhandled ph b).2 = [.unhandled ph b] := rfl
@[simp] theorem Decoder.appendNibble_events (n : Nibble) : (d.appendNibble n).2 = [] := rfl
@[simp] theorem Decoder.completeGroup_events : d.completeGroup.2 = [] := rfl
@[simp] theorem Decoder.endTraining_events : d.endTraining.2 = [.finishTraining d.done, .startStretching] := rfl
@[simp] theorem Decoder.abortTraining_events : d.abortTraining.2 = [.finishStretching] := rfl
@[simp] theorem Decoder.endStretching_events : d.endStretching.2 = [.finishStretching] := rfl

/-! ### The rows of each phase, exclusive and complete -/

/-- The two rows of `Idle` (R181, R182). -/
theorem decStep_idle_cases (h : d.phase = .idle) :
    (b = c.start ∧ decStep c d b = d.startTraining) ∨
    (b ≠ c.start ∧ decStep c d b = d.reportUnhandled .idle b) := by
  obtain ⟨-, -, -, -, hs16, -, -, hsm, hsf, -⟩ := c.facts
  rcases classify_cases c b with ⟨n, rfl, -, -⟩ | ⟨rfl, -⟩ | ⟨rfl, -⟩ | ⟨rfl, -⟩ | ⟨-, hs, -, -, hcl⟩
  · exact .inr ⟨nibbleByte_ne_marker n hs16, by simp [decStep, h]⟩
  · exact .inl ⟨rfl, by simp [decStep, h]⟩
  · exact .inr ⟨hsm.symm, by simp [decStep, h]⟩
  · exact .inr ⟨hsf.symm, by simp [decStep, h]⟩
  · exact .inr ⟨hs, by simp [decStep, h, hcl]⟩

/-- The five rows of `Training` (R183 to R187, R189). -/
theorem decStep_training_cases (h : d.phase = .training) :
    (∃ n, b = nibbleByte n ∧ decStep c d b = d.appendNibble n) ∨
    (b = c.measured ∧ d.pending ≠ [] ∧ decStep c d b = d.completeGroup) ∨
    (b = c.measured ∧ d.pending = [] ∧ decStep c d b = d.endTraining) ∨
    (b = c.finish ∧ decStep c d b = d.abortTraining) ∨
    (16 ≤ b.toNat ∧ b ≠ c.measured ∧ b ≠ c.finish ∧ decStep c d b = d.reportUnhandled .training b) := by
  obtain ⟨-, -, -, -, hs16, -, -, hsm, hsf, -⟩ := c.facts
  rcases classify_cases c b with ⟨n, rfl, -, -⟩ | ⟨rfl, -⟩ | ⟨rfl, -⟩ | ⟨rfl, -⟩ | ⟨h16, -, hm, hf, hcl⟩
  · exact .inl ⟨n, rfl, by simp [decStep, h]⟩
  · exact .inr (.inr (.inr (.inr ⟨hs16, hsm, hsf, by simp [decStep, h]⟩)))
  · by_cases hp : d.pending = []
    · exact .inr (.inr (.inl ⟨rfl, hp, by simp [decStep, h, hp]⟩))
    · exact .inr (.inl ⟨rfl, hp, by simp [decStep, h, hp]⟩)
  · exact .inr (.inr (.inr (.inl ⟨rfl, by simp [decStep, h]⟩)))
  · exact .inr (.inr (.inr (.inr ⟨h16, hm, hf, by simp [decStep, h, hcl]⟩)))

/-- The two rows of `Stretching` (R190, R191). -/
theorem decStep_stretching_cases (h : d.phase = .stretching) :
    (b = c.finish ∧ decStep c d b = d.endStretching) ∨
    (b ≠ c.finish ∧ decStep c d b = d.reportUnhandled .stretching b) := by
  obtain ⟨-, -, -, -, -, -, hf16, -, hsf, hmf⟩ := c.facts
  rcases classify_cases c b with ⟨n, rfl, -, -⟩ | ⟨rfl, -⟩ | ⟨rfl, -⟩ | ⟨rfl, -⟩ | ⟨-, -, -, hf, hcl⟩
  · exact .inr ⟨nibbleByte_ne_marker n hf16, by simp [decStep, h]⟩
  · exact .inr ⟨hsf, by simp [decStep, h]⟩
  · exact .inr ⟨hmf, by simp [decStep, h]⟩
  · exact .inl ⟨rfl, by simp [decStep, h]⟩
  · exact .inr ⟨hf, by simp [decStep, h, hcl]⟩

/-! ### The count -/

/-- Outside `Training` every byte yields one event. -/
theorem decStep_events_length_of_not_training (h : d.phase ≠ .training) : (decStep c d b).2.length = 1 := by
  cases hp : d.phase with
  | idle => rcases decStep_idle_cases c b hp with ⟨-, e⟩ | ⟨-, e⟩ <;> simp [e]
  | training => exact absurd hp h
  | stretching => rcases decStep_stretching_cases c b hp with ⟨-, e⟩ | ⟨-, e⟩ <;> simp [e]

/-- Settles O46: outside `Training` the count is one; in `Training` it is that of the byte's row, the rows being
told apart because no marker is a nibble and the markers differ. -/
theorem eventCountPerByte : Obligations.EventCountPerByte := by
  unfold Obligations.EventCountPerByte
  intro c d b
  by_cases h : d.phase = .training
  · obtain ⟨-, -, -, -, -, hm16, hf16, -, -, hmf⟩ := c.facts
    rcases decStep_training_cases c b h with
      ⟨n, rfl, e⟩ | ⟨rfl, hp, e⟩ | ⟨rfl, hp, e⟩ | ⟨rfl, e⟩ | ⟨h16, hm, -, e⟩
    · have hn : n.toNat ≤ 15 := Nat.le_of_lt_succ n.isLt
      simp [e, h, hn, nibbleByte_ne_marker n hm16]
    · simp [e, h, hp]
    · have hm : 15 < c.measured.toNat := hm16
      simp [e, h, hp, hm]
    · have hf : 15 < c.finish.toNat := hf16
      simp [e, h, hmf.symm, hf]
    · have hb : 15 < b.toNat := h16
      simp [e, h, hm, hb]
  · simp [h, decStep_events_length_of_not_training c b h]

end Sys2Proof.Machine
end

section
/-! What the decoder's operations do to the whole state (46_telemetry_decoder.md R181, R183, R187). None of them
reads the phase: that is what selects them (R180). -/

namespace Sys2Proof.Machine

variable (s : State)

/-- A decoder step without events writes the decoder and nothing else. -/
theorem State.commitByte_of_no_events (d : Decoder) : s.commitByte (d, []) = { s with dec := d } := by
  simp [State.commitByte]

theorem exec_decIdleStart_eq : exec .decIdleStart s = .next (s.commitByte s.dec.startTraining) := rfl

theorem exec_decTrainingNibble_eq (n : Nibble) :
    exec (.decTrainingNibble n) s = .next (s.commitByte (s.dec.appendNibble n)) := rfl

theorem exec_decTrainingFinish_eq : exec .decTrainingFinish s = .next (s.commitByte s.dec.abortTraining) := rfl

/-- Settles O37: the operation commits `startTraining`, the cleared decoder and its one event. -/
theorem decIdleStartOperation : Obligations.DecIdleStartOperation := by
  unfold Obligations.DecIdleStartOperation
  intro s _
  rw [exec_decIdleStart_eq, State.commitByte, Decoder.startTraining]

/-- Settles O39: the operation commits `appendNibble`, which has no event. -/
theorem decTrainingNibbleOperation : Obligations.DecTrainingNibbleOperation := by
  unfold Obligations.DecTrainingNibbleOperation
  intro s n _
  rw [exec_decTrainingNibble_eq, Decoder.appendNibble, State.commitByte_of_no_events]

/-- Settles O42: the operation commits `abortTraining`, the cleared decoder and the event of the quirk. -/
theorem decTrainingFinishOperation : Obligations.DecTrainingFinishOperation := by
  unfold Obligations.DecTrainingFinishOperation
  intro s _
  rw [exec_decTrainingFinish_eq, State.commitByte, Decoder.abortTraining]

end Sys2Proof.Machine
end

section
/-! The decoder run over whole parts of a stream, and the source's end-to-end scenarios (46_telemetry_decoder.md
R181 to R190, R196). -/

namespace Sys2Proof.Machine

variable (c : Config)

/-! ### One row per byte that a phase expects -/

/-- `START` in `Idle` (R181). -/
theorem decStep_idle_start {d : Decoder} (h : d.phase = .idle) : decStep c d c.start = d.startTraining := by
  simp [decStep, h]

/-- `MEASURED` in `Training` with digits pending (R184). -/
theorem decStep_training_measured_group {d : Decoder} (h : d.phase = .training) (hp : d.pending ≠ []) :
    decStep c d c.measured = d.completeGroup := by
  simp [decStep, h, hp]

/-- `MEASURED` in `Training` with none pending (R185). -/
theorem decStep_training_measured_bare {d : Decoder} (h : d.phase = .training) (hp : d.pending = []) :
    decStep c d c.measured = d.endTraining := by
  simp [decStep, h, hp]

/-- `FINISH` in `Training` (R187). -/
theorem decStep_training_finish {d : Decoder} (h : d.phase = .training) : decStep c d c.finish = d.abortTraining := by
  simp [decStep, h]

/-- `FINISH` in `Stretching` (R190). -/
theorem decStep_stretching_finish {d : Decoder} (h : d.phase = .stretching) :
    decStep c d c.finish = d.endStretching := by
  simp [decStep, h]

/-! ### Runs over the parts of a stream -/

/-- A fresh decoder that receives `START` reports it and goes on in `Training` with both lists empty. -/
theorem decodeFrom_reset_start (bs : List Byte) :
    decodeFrom c Decoder.reset (c.start :: bs) =
      ((decodeFrom c { phase := .training, pending := [], done := [] } bs).1,
       .startTraining :: (decodeFrom c { phase := .training, pending := [], done := [] } bs).2) := by
  rw [decodeFrom_cons, decStep_idle_start c (d := Decoder.reset) rfl]
  rfl

/-- In `Training` a group, one or more digits and their `MEASURED`, adds the value of the digits to the measurements
and reports nothing (R183, R184). -/
theorem decodeFrom_group (dn : List U32) {ns : List Nibble} (hns : ns ≠ []) (bs : List Byte) :
    decodeFrom c { phase := .training, pending := [], done := dn } (ns.map nibbleByte ++ c.measured :: bs) =
      decodeFrom c { phase := .training, pending := [], done := dn ++ [value ns] } bs := by
  rw [decodeFrom_append, decodeFrom_digits, List.nil_append, decodeFrom_cons,
    decStep_training_measured_group c rfl hns]
  rfl

/-- In `Training` with nothing pending, `MEASURED` ends the training (R185). -/
theorem decodeFrom_measured_bare (dn : List U32) :
    decodeFrom c { phase := .training, pending := [], done := dn } [c.measured] =
      ({ phase := .stretching, pending := [], done := dn }, [.finishTraining dn, .startStretching]) := by
  rw [decodeFrom_cons, decStep_training_measured_bare c rfl rfl]
  rfl

/-- In `Stretching`, `FINISH` reports the end and returns to `Idle` (R190). -/
theorem decodeFrom_stretching_finish (dn : List U32) :
    decodeFrom c { phase := .stretching, pending := [], done := dn } [c.finish] =
      ({ phase := .idle, pending := [], done := dn }, [.finishStretching]) := by
  rw [decodeFrom_cons, decStep_stretching_finish c rfl]
  rfl

/-- In `Training`, digits with `FINISH` after them are dropped, and so are the measurements (R187). -/
theorem decodeFrom_digits_finish (dn : List U32) (ns : List Nibble) :
    decodeFrom c { phase := .training, pending := [], done := dn } (ns.map nibbleByte ++ [c.finish]) =
      ({ phase := .idle, pending := [], done := [] }, [.finishStretching]) := by
  rw [decodeFrom_append, decodeFrom_digits, decodeFrom_cons, decStep_training_finish c rfl]
  rfl

/-! ### The source's scenarios (R196) -/

/-- Scenario 1: a training of the measurements 3, 5 and 2, up to its bare `MEASURED`. -/
def scenarioTrained : List Byte :=
  [c.start, 0x3#8, c.measured, 0x5#8, c.measured, 0x2#8, c.measured, c.measured]

/-- Scenario 3: a training stopped after its first digit. -/
def scenarioStopped : List Byte := [c.start, 0x1#8, c.finish]

/-- Scenario 1 is `START`, three groups of one digit each and a bare `MEASURED`. -/
theorem scenarioTrained_eq_groups :
    scenarioTrained c =
      c.start :: ([3#4].map nibbleByte ++ c.measured :: ([5#4].map nibbleByte ++ c.measured ::
        ([2#4].map nibbleByte ++ c.measured :: [c.measured]))) := rfl

theorem decodeFrom_scenarioTrained :
    decodeFrom c Decoder.reset (scenarioTrained c) =
      ({ phase := .stretching, pending := [], done := [3#32, 5#32, 2#32] },
       [.startTraining, .finishTraining [3#32, 5#32, 2#32], .startStretching]) := by
  rw [scenarioTrained_eq_groups, decodeFrom_reset_start, decodeFrom_group c _ (List.cons_ne_nil _ _),
    decodeFrom_group c _ (List.cons_ne_nil _ _), decodeFrom_group c _ (List.cons_ne_nil _ _),
    decodeFrom_measured_bare]
  rfl

/-- Scenario 2: `FINISH` after scenario 1. -/
theorem decodeFrom_scenarioTrained_finish :
    decodeFrom c Decoder.reset (scenarioTrained c ++ [c.finish]) =
      ({ phase := .idle, pending := [], done := [3#32, 5#32, 2#32] },
       [.startTraining, .finishTraining [3#32, 5#32, 2#32], .startStretching] ++ [.finishStretching]) := by
  rw [decodeFrom_append, decodeFrom_scenarioTrained, decodeFrom_stretching_finish]

theorem decodeFrom_scenarioStopped :
    decodeFrom c Decoder.reset (scenarioStopped c) =
      ({ phase := .idle, pending := [], done := [] }, [.startTraining, .finishStretching]) := by
  rw [show scenarioStopped c = c.start :: ([1#4].map nibbleByte ++ [c.finish]) from rfl, decodeFrom_reset_start,
    decodeFrom_digits_finish]

/-- Settles O48: the final decoder and all the events of each scenario, read off its run. -/
theorem sourceScenariosDecode : Obligations.SourceScenariosDecode := by
  unfold Obligations.SourceScenariosDecode
  intro c
  have h1 := decodeFrom_scenarioTrained c
  have h2 := decodeFrom_scenarioTrained_finish c
  have h3 := decodeFrom_scenarioStopped c
  refine ⟨congrArg Prod.snd h1, ?_, congrArg (·.1.phase) h2, congrArg Prod.snd h3, congrArg (·.1.phase) h3⟩
  change decodeStream c (scenarioTrained c ++ [c.finish]) = decodeStream c (scenarioTrained c) ++ [.finishStretching]
  simp only [decodeStream, h1, h2]

end Sys2Proof.Machine
end

section
/-! The rules of a device tick as a relation (45_observer_fsm.md R150 to R157, R160): one constructor per row. Every
statement about ticks goes through it: `exec_of_fires` and `step_of_fires` run a rule, `step_device_cases` says that
a step fires one or leaves the device alone. -/

namespace Sys2Proof.Machine

/-- `Fires c d p r`: at a tick in the device state `d` with the press `p` the rule that applies gives `r`, the registers
before the latch updates and the burst. -/
inductive Fires (c : Config) (d : Device) : Bool → Device × List Byte → Prop where
  /-- A press in `Idle` (R150). -/
  | start : d.st = .idle → Fires c d true ({ d with st := .trainWait }, [c.start])
  /-- No press in `Idle` (R150). -/
  | idle : d.st = .idle → Fires c d false (d, [])
  /-- A press in an abortable state, before everything else (R155). -/
  | press : d.st.abortable = true → Fires c d true ({ d with st := .abort }, [])
  /-- A falling edge starts a training (R151, R131). -/
  | load : d.st = .trainWait → d.prev = true → d.cur = false →
      Fires c d false ({ d.loadAll with st := .trainCount }, [])
  /-- No falling edge yet (R151). -/
  | awaitTraining : d.st = .trainWait → ¬(d.prev = true ∧ d.cur = false) → Fires c d false (d, [])
  /-- No edge: the slot of `idx` counts (R152, R132). -/
  | count : d.st = .trainCount → d.cur = d.prev → Fires c d false (d.countSlot c, [])
  /-- An edge that ends the first or the second level (R152, R133, R134). -/
  | advance : d.st = .trainCount → d.cur ≠ d.prev → d.idx ≠ .low1 →
      Fires c d false (d.advance, encodeMeasurement c (d.meas d.idx))
  /-- An edge that ends the third level (R152, R134). -/
  | finishTraining : d.st = .trainCount → d.cur ≠ d.prev → d.idx = .low1 →
      Fires c d false ({ d with st := .stretchWait }, encodeMeasurement c d.low1 ++ encodeEndOfTraining c)
  /-- A falling edge starts a stretch (R153, R142). -/
  | loadHold : d.st = .stretchWait → d.prev = true → d.cur = false →
      Fires c d false ({ d.loadHold with st := .holding }, [])
  /-- No falling edge yet (R153). -/
  | awaitStretch : d.st = .stretchWait → ¬(d.prev = true ∧ d.cur = false) → Fires c d false (d, [])
  /-- The last tick of `Holding` (R154, R143). -/
  | endHold : d.st = .holding → d.hold ≤ 1 → Fires c d false ({ d with hold := 0, st := .holdingDone }, [])
  /-- An earlier tick of `Holding` (R154, R143). -/
  | countDown : d.st = .holding → 1 < d.hold → Fires c d false ({ d with hold := d.hold - 1 }, [])
  /-- The line reads high (R156). -/
  | release : d.st = .holdingDone → d.cur = true → Fires c d false ({ d with st := .stretchWait }, [])
  /-- The line still reads low (R156). -/
  | awaitRelease : d.st = .holdingDone → d.cur = false → Fires c d false (d, [])
  /-- `Abort` returns, whatever the press (R157). -/
  | abortReturn (p : Bool) : d.st = .abort → Fires c d p ({ d with st := .idle }, [c.finish])

/-- The five states that a press aborts (R155). -/
theorem FsmState.abortable_cases {st : FsmState} (h : st.abortable = true) :
    st = .trainWait ∨ st = .trainCount ∨ st = .stretchWait ∨ st = .holding ∨ st = .holdingDone := by
  cases st <;> simp [FsmState.abortable] at h ⊢

/-- Writing the value that `st` has changes nothing. -/
theorem Device.with_st_self {d : Device} {x : FsmState} (h : d.st = x) : { d with st := x } = d := by
  subst h; rfl

@[simp] theorem Device.countSlot_st (d : Device) (c : Config) : (d.countSlot c).st = d.st := d.setMeas_st ..
@[simp] theorem Device.advance_st (d : Device) : d.advance.st = d.st := d.setMeas_st ..

/-- In every state some rule applies, whatever the press (R158). -/
theorem exists_fires (c : Config) (d : Device) (p : Bool) : ∃ r, Fires c d p r := by
  cases p with
  | true =>
    cases hst : d.st with
    | idle => exact ⟨_, .start hst⟩
    | abort => exact ⟨_, .abortReturn _ hst⟩
    | _ => exact ⟨_, .press (by rw [hst]; rfl)⟩
  | false =>
    cases hst : d.st with
    | idle => exact ⟨_, .idle hst⟩
    | trainWait =>
      by_cases hf : d.prev = true ∧ d.cur = false
      · exact ⟨_, .load hst hf.1 hf.2⟩
      · exact ⟨_, .awaitTraining hst hf⟩
    | trainCount =>
      by_cases he : d.cur = d.prev
      · exact ⟨_, .count hst he⟩
      by_cases hi : d.idx = .low1
      · exact ⟨_, .finishTraining hst he hi⟩
      · exact ⟨_, .advance hst he hi⟩
    | stretchWait =>
      by_cases hf : d.prev = true ∧ d.cur = false
      · exact ⟨_, .loadHold hst hf.1 hf.2⟩
      · exact ⟨_, .awaitStretch hst hf⟩
    | holding =>
      by_cases hh : d.hold ≤ 1
      · exact ⟨_, .endHold hst hh⟩
      · exact ⟨_, .countDown hst (Nat.lt_of_not_le hh)⟩
    | holdingDone =>
      cases hc : d.cur
      · exact ⟨_, .awaitRelease hst hc⟩
      · exact ⟨_, .release hst hc⟩
    | abort => exact ⟨_, .abortReturn _ hst⟩

/-- The operation of a state commits what the rule that fires gives. -/
theorem exec_of_fires {t : State} {r : Device × List Byte} (h : Fires t.cfg t.dev t.ports.trigger r) :
    exec t.dev.st.operation t = .next (t.commitTick r) := by
  generalize hp : t.ports.trigger = p at h
  cases h with
  | start hst => simp [hst, FsmState.operation, exec, execFsmIdle, hp]
  | idle hst => simp [hst, FsmState.operation, exec, execFsmIdle, hp, Device.with_st_self hst]
  | press ha =>
    rcases FsmState.abortable_cases ha with hst | hst | hst | hst | hst <;>
      simp [hst, FsmState.operation, exec, execFsmTrainWait, execFsmTrainCount, execFsmStretchWait, execFsmHolding,
        execFsmHoldingDone, Device.unlessPressed, hp, Device.abortEntry]
  | load hst h1 h0 =>
    simp [hst, FsmState.operation, exec, execFsmTrainWait, Device.unlessPressed, hp, Device.fall, h1, h0]
  | awaitTraining hst hf =>
    have hf : t.dev.fall = false := by rw [← Bool.not_eq_true, Device.fall_iff]; exact hf
    simp [hst, FsmState.operation, exec, execFsmTrainWait, Device.unlessPressed, hp, hf, Device.with_st_self hst]
  | count hst he =>
    simp [hst, FsmState.operation, exec, execFsmTrainCount, Device.unlessPressed, hp, Device.levelEq, he,
      Device.with_st_self (d := t.dev.countSlot t.cfg) (by simpa using hst)]
  | advance hst he hi =>
    simp [hst, FsmState.operation, exec, execFsmTrainCount, Device.unlessPressed, hp, Device.levelEq, he,
      Device.lastSlot, hi, Device.finalized, Device.with_st_self (d := t.dev.advance) (by simpa using hst)]
  | finishTraining hst he hi =>
    simp [hst, FsmState.operation, exec, execFsmTrainCount, Device.unlessPressed, hp, Device.levelEq, he,
      Device.lastSlot, hi]
  | loadHold hst h1 h0 =>
    simp [hst, FsmState.operation, exec, execFsmStretchWait, Device.unlessPressed, hp, Device.fall, h1, h0]
  | awaitStretch hst hf =>
    have hf : t.dev.fall = false := by rw [← Bool.not_eq_true, Device.fall_iff]; exact hf
    simp [hst, FsmState.operation, exec, execFsmStretchWait, Device.unlessPressed, hp, hf, Device.with_st_self hst]
  | endHold hst hh =>
    simp [hst, FsmState.operation, exec, execFsmHolding, Device.unlessPressed, hp, Device.countDown,
      Device.holdDone, hh]
  | countDown hst hh =>
    simp [hst, FsmState.operation, exec, execFsmHolding, Device.unlessPressed, hp, Device.countDown, Device.holdDone,
      Nat.not_le.2 hh]
  | release hst hc =>
    simp [hst, FsmState.operation, exec, execFsmHoldingDone, Device.unlessPressed, hp, Device.lineHigh, hc]
  | awaitRelease hst hc =>
    rw [hst, FsmState.operation, exec, execFsmHoldingDone, hp, Device.lineHigh, hc, Device.with_st_self hst]
    rfl
  | abortReturn _ hst => simp [hst, FsmState.operation, exec, execFsmAbort, Device.abortReturn]

variable {s t : State}

/-- A tick commits what the rule that fires gives, with the ports sampled. -/
theorem step_of_fires {l p : Bool} {r : Device × List Byte} (h : s.nextStimulus = .tick l p)
    (hf : Fires s.cfg s.dev p r) : step s = .next ((s.dropStimulus.sample l p).commitTick r) := by
  rw [step_tick h, ← dropStimulus_dev s, ← State.sample_dev _ l p]
  exact exec_of_fires (by simpa using hf)

/-- A tick that answers has fired a rule. -/
theorem fires_of_step {l p : Bool} (h : s.nextStimulus = .tick l p) (hs : step s = .next t) :
    ∃ r, Fires s.cfg s.dev p r ∧ t = (s.dropStimulus.sample l p).commitTick r := by
  obtain ⟨r, hf⟩ := exists_fires s.cfg s.dev p
  rw [step_of_fires h hf] at hs
  cases hs
  exact ⟨r, hf, rfl⟩

/-- What the device side of the machine keeps at a step that is no tick (R35). -/
theorem step_keeps_device (h : ∀ l p, s.nextStimulus ≠ .tick l p) (hs : step s = .next t) :
    t.dev = s.dev ∧ t.ports = s.ports ∧ t.stream = s.stream ∧ t.tick = s.tick ∧
      t.out.lineOverrideEnable = s.out.lineOverrideEnable ∧ t.out.burst = s.out.burst := by
  rcases step_cases hs with
    ⟨l, p, r, hn, -, -⟩ | ⟨-, -, rfl⟩ | ⟨b, bs, -, -, rfl⟩ | ⟨b, -, rfl⟩ | ⟨r, e, -, rfl⟩ | ⟨-, rfl⟩ |
    ⟨v, -, rfl⟩ | ⟨-, rfl⟩ | ⟨-, rfl⟩
  · exact absurd hn (h l p)
  all_goals simp

/-- What a step does to the device and its stream: a tick fires a rule and latches, any other step keeps them. -/
theorem step_device_cases (hs : step s = .next t) :
    (∃ l p r, s.nextStimulus = .tick l p ∧ Fires s.cfg s.dev p r ∧
      t.dev = r.1.latch s.dev l ∧ t.stream = s.stream ++ r.2) ∨
    (t.dev = s.dev ∧ t.stream = s.stream) := by
  by_cases h : ∃ l p, s.nextStimulus = .tick l p
  · obtain ⟨l, p, h⟩ := h
    obtain ⟨r, hf, rfl⟩ := fires_of_step h hs
    exact .inl ⟨l, p, r, h, hf, by simp, by simp⟩
  · obtain ⟨hdev, -, hstream, -⟩ := step_keeps_device (by simpa using h) hs
    exact .inr ⟨hdev, hstream⟩

end Sys2Proof.Machine
end

section
/-! The invariant of the device's registers (10_state.md section 6, R37 to R39). -/

namespace Sys2Proof.Machine

variable {c : Config} {d : Device}

/-- Every rule, with the latches, keeps the invariant. -/
theorem Fires.keeps_inv {p l : Bool} {r : Device × List Byte} (h : Fires c d p r) (hi : d.inv c) :
    (r.1.latch d l).inv c := by
  obtain ⟨h0, h1, h2, hh, hm, hp⟩ := hi
  have hc := c.one_le_tickMax
  cases h with
  | start hst => exact ⟨h0, h1, h2, hh, nofun, nofun⟩
  | idle hst => exact ⟨h0, h1, h2, hh, hm, by simp [hst]⟩
  | press ha => exact ⟨h0, h1, h2, hh, nofun, nofun⟩
  | load hst h1 h0 => exact ⟨hc, hc, hc, hh, fun _ => ⟨le_rfl, le_rfl, le_rfl⟩, fun _ => h0⟩
  | awaitTraining hst hf => exact ⟨h0, h1, h2, hh, hm, by simp [hst]⟩
  | count hst he =>
    obtain ⟨m0, m1, m2⟩ := hm (by rw [hst]; rfl)
    have hp := he.trans (hp hst)
    rcases d.countSlot_cases c with ⟨hi, e⟩ | ⟨hi, e⟩ | ⟨hi, e⟩ <;> rw [e]
    · exact ⟨satInc_le h0, h1, h2, hh, fun _ => ⟨m0.trans (le_satInc ..), m1, m2⟩, fun _ => hp⟩
    · exact ⟨h0, satInc_le h1, h2, hh, fun _ => ⟨m0, m1.trans (le_satInc ..), m2⟩, fun _ => hp⟩
    · exact ⟨h0, h1, satInc_le h2, hh, fun _ => ⟨m0, m1, m2.trans (le_satInc ..)⟩, fun _ => hp⟩
  | advance hst he hi =>
    obtain ⟨m0, m1, m2⟩ := hm (by rw [hst]; rfl)
    have hp : d.cur = !d.idx.odd := by rw [← hp hst]; exact Bool.eq_not.2 he
    rcases d.advance_cases with ⟨hj, e⟩ | ⟨hj, e⟩ | ⟨hj, e⟩
    · rw [e]; exact ⟨h0, hc, h2, hh, fun _ => ⟨m0, le_rfl, m2⟩, fun _ => by rw [hj] at hp; exact hp⟩
    · rw [e]; exact ⟨h0, h1, hc, hh, fun _ => ⟨m0, m1, le_rfl⟩, fun _ => by rw [hj] at hp; exact hp⟩
    · exact absurd hj hi
  | finishTraining hst he hi => exact ⟨h0, h1, h2, hh, fun _ => hm (by rw [hst]; rfl), nofun⟩
  | loadHold hst _ _ =>
    refine ⟨h0, h1, h2, ?_, fun _ => hm (by rw [hst]; rfl), nofun⟩
    show d.low0 + d.high0 - 2 ≤ 2 * c.tickMax - 2
    omega
  | awaitStretch hst hf => exact ⟨h0, h1, h2, hh, hm, by simp [hst]⟩
  | endHold hst _ => exact ⟨h0, h1, h2, Nat.zero_le _, fun _ => hm (by rw [hst]; rfl), nofun⟩
  | countDown hst _ => exact ⟨h0, h1, h2, (Nat.sub_le ..).trans hh, hm, by simp [hst]⟩
  | release hst _ => exact ⟨h0, h1, h2, hh, fun _ => hm (by rw [hst]; rfl), nofun⟩
  | awaitRelease hst _ => exact ⟨h0, h1, h2, hh, hm, by simp [hst]⟩
  | abortReturn _ hst => exact ⟨h0, h1, h2, hh, nofun, nofun⟩

/-- Settles O49: a tick fires a rule, which keeps the invariant, and no other step writes the device. -/
theorem deviceInvariantKept : Obligations.DeviceInvariantKept := by
  unfold Obligations.DeviceInvariantKept
  intro s t hi hs
  rw [step_cfg hs]
  rcases step_device_cases hs with ⟨l, p, r, -, hf, hdev, -⟩ | ⟨hdev, -⟩ <;> rw [hdev]
  · exact hf.keeps_inv hi
  · exact hi

end Sys2Proof.Machine
end

section
/-! The operations of the seven FSM states, register by register (45_observer_fsm.md R150 to R157). -/

namespace Sys2Proof.Machine

variable {s : State}

/-- The operation of the state, run where a rule fires, ends in the ticked state, with the override of the state. -/
theorem exec_ticked {st : FsmState} {p : Bool} {d : Device} {tx : List Byte} (hst : s.dev.st = st)
    (hp : s.ports.trigger = p) (h : Fires s.cfg s.dev p (d, tx)) :
    exec st.operation s = .next (s.ticked d (decide (st = .holding)) tx) := by
  subst hst hp
  exact exec_of_fires h

/-- A press in an abortable state, run. -/
theorem exec_press {st : FsmState} (hst : s.dev.st = st) (ha : st.abortable = true) (hp : s.ports.trigger = true) :
    exec st.operation s = .next (s.ticked { s.dev with st := .abort } (decide (st = .holding)) []) :=
  exec_ticked hst hp (.press (hst ▸ ha))

/-- Settles O29, by the two rules of `Idle`. -/
theorem idleOperation : Obligations.IdleOperation := by
  unfold Obligations.IdleOperation
  intro s hst
  refine ⟨fun hp => exec_ticked hst hp (.start hst), fun hp => ?_⟩
  rw [Device.with_st_self hst]
  exact exec_ticked hst hp (.idle hst)

/-- Settles O30, by the three rules of `TrainWait`. -/
theorem trainWaitOperation : Obligations.TrainWaitOperation := by
  unfold Obligations.TrainWaitOperation
  intro s hst
  refine ⟨exec_press hst rfl, fun hp ⟨h1, h0⟩ => exec_ticked hst hp (.load hst h1 h0), fun hp hf => ?_⟩
  rw [Device.with_st_self hst]
  exact exec_ticked hst hp (.awaitTraining hst hf)

theorem Device.countSlot_of_low0 {d : Device} (c : Config) (h : d.idx = .low0) :
    d.countSlot c = { d with low0 := satInc d.low0 c.tickMax } := by
  simp [Device.countSlot, h, Device.setMeas, Device.meas]

theorem Device.countSlot_of_high0 {d : Device} (c : Config) (h : d.idx = .high0) :
    d.countSlot c = { d with high0 := satInc d.high0 c.tickMax } := by
  simp [Device.countSlot, h, Device.setMeas, Device.meas]

theorem Device.countSlot_of_low1 {d : Device} (c : Config) (h : d.idx = .low1) :
    d.countSlot c = { d with low1 := satInc d.low1 c.tickMax } := by
  simp [Device.countSlot, h, Device.setMeas, Device.meas]

theorem Device.advance_of_low0 {d : Device} (h : d.idx = .low0) : d.advance = { d with idx := .high0, high0 := 1 } := by
  simp [Device.advance, h, Device.setMeas, MeasIdx.next]

theorem Device.advance_of_high0 {d : Device} (h : d.idx = .high0) : d.advance = { d with idx := .low1, low1 := 1 } := by
  simp [Device.advance, h, Device.setMeas, MeasIdx.next]

/-- The burst of the third measurement, written out (R113, R134). -/
theorem encodeMeasurement_endOfTraining (c : Config) (v : Nat) :
    encodeMeasurement c v ++ encodeEndOfTraining c = (digits v).map nibbleByte ++ [c.measured, c.measured] := by
  simp [encodeMeasurement, encodeEndOfTraining]

/-- Settles O31: the rule `count` for each slot, and on an edge `advance` for the first two and `finishTraining` for
the third. -/
theorem trainCountOperation : Obligations.TrainCountOperation := by
  unfold Obligations.TrainCountOperation
  intro s hst
  refine ⟨exec_press hst rfl, fun hp he => ?_, fun hp he => ⟨fun hi => ?_, fun hi => ?_, fun hi => ?_⟩⟩
  · have h := exec_ticked hst hp (.count hst he)
    refine ⟨fun hi => ?_, fun hi => ?_, fun hi => ?_⟩
    · rw [Device.countSlot_of_low0 _ hi] at h; exact h
    · rw [Device.countSlot_of_high0 _ hi] at h; exact h
    · rw [Device.countSlot_of_low1 _ hi] at h; exact h
  · have h := exec_ticked hst hp (.advance hst he (by simp [hi]))
    rw [Device.advance_of_low0 hi, hi] at h; exact h
  · have h := exec_ticked hst hp (.advance hst he (by simp [hi]))
    rw [Device.advance_of_high0 hi, hi] at h; exact h
  · rw [← encodeMeasurement_endOfTraining]
    exact exec_ticked hst hp (.finishTraining hst he hi)

/-- The hold duration with its clamp written as the maximum (R141, D11). -/
theorem holdDuration_eq_max (a b : Nat) : holdDuration a b = max (a + b) 2 - 2 := by
  unfold holdDuration; omega

/-- Settles O32, by the three rules of `StretchWait`. -/
theorem stretchWaitOperation : Obligations.StretchWaitOperation := by
  unfold Obligations.StretchWaitOperation
  intro s hst
  refine ⟨exec_press hst rfl, fun hp ⟨h1, h0⟩ => ?_, fun hp hf => ?_⟩
  · rw [← holdDuration_eq_max]
    exact exec_ticked hst hp (.loadHold hst h1 h0)
  · rw [Device.with_st_self hst]
    exact exec_ticked hst hp (.awaitStretch hst hf)

/-- Settles O33, by the three rules of `Holding`. -/
theorem holdingOperation : Obligations.HoldingOperation := by
  unfold Obligations.HoldingOperation
  intro s hst
  refine ⟨exec_press hst rfl, fun hp hh => exec_ticked hst hp (.endHold hst hh), fun hp hh => ?_⟩
  have h := exec_ticked hst hp (.countDown hst hh)
  rw [hst] at h; exact h

/-- Settles O34, by the three rules of `HoldingDone`. -/
theorem holdingDoneOperation : Obligations.HoldingDoneOperation := by
  unfold Obligations.HoldingDoneOperation
  intro s hst
  refine ⟨exec_press hst rfl, fun hp hc => exec_ticked hst hp (.release hst hc), fun hp hc => ?_⟩
  rw [Device.with_st_self hst]
  exact exec_ticked hst hp (.awaitRelease hst hc)

/-- Settles O35, by the one rule of `Abort`, which fires whatever the press. -/
theorem abortOperation : Obligations.AbortOperation := by
  unfold Obligations.AbortOperation
  intro s hst
  exact exec_ticked hst rfl (.abortReturn _ hst)

/-! ### The tick as a whole -/

/-- A pending tick, run where a rule fires. -/
theorem step_tick_of_fires {l p : Bool} {rest : List Stimulus} {r : Device × List Byte}
    (h : s.stimulus = .tick l p :: rest) (hf : Fires s.cfg s.dev p r) :
    step s = .next (({ s with stimulus := rest }.sample l p).commitTick r) := by
  obtain ⟨hn, hd⟩ := nextStimulus_cons h
  rw [step_of_fires hn hf, hd]

/-- Settles O36: the rule `press` fires. -/
theorem pressAbortsAndSuppressesAll : Obligations.PressAbortsAndSuppressesAll := by
  unfold Obligations.PressAbortsAndSuppressesAll
  intro s l rest h ha
  exact ⟨_, step_tick_of_fires h (.press ha), rfl, rfl, List.append_nil _, List.append_nil _, rfl⟩

/-- Settles O16: the committed override is that of the state at the tick. -/
theorem overrideExactlyInHolding : Obligations.OverrideExactlyInHolding := by
  unfold Obligations.OverrideExactlyInHolding
  intro s t l p h hs
  obtain ⟨r, -, rfl⟩ := fires_of_step h hs
  simpa using s.dev.lineOverride_iff

/-- The rule that fires is the row of the reference listing (45 section 3), the latches being part of that row. -/
theorem Fires.eq_referenceTick {c : Config} {d : Device} {p : Bool} {r : Device × List Byte} (h : Fires c d p r)
    (l : Bool) : referenceTick c d l p = (r.1.latch d l, d.lineOverride, r.2) := by
  cases h with
  | start hst | idle hst => simp [referenceTick, hst, Device.latch, Device.lineOverride]
  | press ha =>
    rcases FsmState.abortable_cases ha with hst | hst | hst | hst | hst <;>
      simp [referenceTick, hst, Device.latch, Device.lineOverride]
  | load hst h1 h0 => simp [referenceTick, hst, h1, h0, Device.latch, Device.lineOverride, Device.loadAll]
  | awaitTraining hst hf => simp [referenceTick, hst, hf, Device.latch, Device.lineOverride]
  | count hst he =>
    rcases d.countSlot_cases c with ⟨hi, e⟩ | ⟨hi, e⟩ | ⟨hi, e⟩ <;>
      simp [referenceTick, hst, he, hi, e, satInc, Device.latch, Device.lineOverride]
  | advance hst he hi =>
    rcases d.advance_cases with ⟨hj, e⟩ | ⟨hj, e⟩ | ⟨hj, e⟩ <;>
      simp_all [referenceTick, Device.latch, Device.lineOverride, encodeMeasurement, Device.meas]
  | finishTraining hst he hi =>
    simp [referenceTick, hst, he, hi, encodeMeasurement_endOfTraining, Device.latch, Device.lineOverride]
  | loadHold hst h1 h0 =>
    simp [referenceTick, hst, h1, h0, Device.latch, Device.lineOverride, Device.loadHold, holdDuration_eq_max]
  | awaitStretch hst hf => simp [referenceTick, hst, hf, Device.latch, Device.lineOverride]
  | endHold hst hh => simp [referenceTick, hst, hh, Device.latch, Device.lineOverride]
  | countDown hst hh => simp [referenceTick, hst, Nat.not_le.2 hh, Device.latch, Device.lineOverride]
  | release hst hc | awaitRelease hst hc => simp [referenceTick, hst, hc, Device.latch, Device.lineOverride]
  | abortReturn _ hst => simp [referenceTick, hst, Device.latch, Device.lineOverride]

/-- Settles O11, by the reference row of the rule that fires. -/
theorem tickIsReferenceListing : Obligations.TickIsReferenceListing := by
  unfold Obligations.TickIsReferenceListing
  intro s l p rest h
  obtain ⟨r, hf⟩ := exists_fires s.cfg s.dev p
  rw [step_tick_of_fires h hf, hf.eq_referenceTick l]
  rfl

/-- The edges of the state diagram (R160). -/
theorem Fires.transition {c : Config} {d : Device} {p : Bool} {r : Device × List Byte} (h : Fires c d p r) :
    r.1.st = d.st ∨ (d.st = .idle ∧ r.1.st = .trainWait) ∨ (d.st = .trainWait ∧ r.1.st = .trainCount) ∨
    (d.st = .trainCount ∧ r.1.st = .stretchWait) ∨ (d.st = .stretchWait ∧ r.1.st = .holding) ∨
    (d.st = .holding ∧ r.1.st = .holdingDone) ∨ (d.st = .holdingDone ∧ r.1.st = .stretchWait) ∨
    (d.st.abortable = true ∧ r.1.st = .abort) ∨ (d.st = .abort ∧ r.1.st = .idle) := by
  cases h with
  | idle | awaitTraining | awaitStretch | countDown | awaitRelease => exact .inl rfl
  | count | advance => exact .inl (by simp)
  | press ha => simp [ha]
  | start hst | load hst | finishTraining hst | loadHold hst | endHold hst | release hst | abortReturn _ hst =>
    simp [hst]

/-- Settles O15: the predecessors of a state are read off the edges into it. -/
theorem statesEnteredOnlyAsListed : Obligations.StatesEnteredOnlyAsListed := by
  unfold Obligations.StatesEnteredOnlyAsListed
  intro s t hs hne
  rcases step_device_cases hs with ⟨l, p, r, -, hf, hdev, -⟩ | ⟨hdev, -⟩
  · rw [hdev, Device.latch_st] at hne ⊢
    rcases hf.transition with h | ⟨h, h'⟩ | ⟨h, h'⟩ | ⟨h, h'⟩ | ⟨h, h'⟩ | ⟨h, h'⟩ | ⟨h, h'⟩ | ⟨h, h'⟩ | ⟨h, h'⟩
    · exact absurd h hne
    all_goals simp [h, h']
  · exact absurd (by rw [hdev]) hne

end Sys2Proof.Machine
end

section
/-! Digits and their value (30_encoding.md R79, 41_telemetry_encoder.md R110 to R116, 46_telemetry_decoder.md R186). -/

namespace Sys2Proof.Machine

/-- The digits of `v` sum up to `v`: the low digit is the remainder, the rest the digits of the quotient. -/
theorem digitSum_digits (v : Nat) : digitSum (digits v) = v := by
  induction v using Nat.strong_induction_on with
  | _ v ih =>
    by_cases h : v < 16
    · rw [digits_of_lt h, digitSum, digitSum, BitVec.toNat_ofNat]
      omega
    · rw [digits_of_le (by omega), digitSum, ih (v / 16) (by omega), BitVec.toNat_ofNat]
      omega

theorem value_digits (v : Nat) : value (digits v) = BitVec.ofNat 32 v := by
  rw [value, digitSum_digits]

/-- `n` digits suffice exactly below `16 ^ n` (R112). -/
theorem ndigits_le_iff {n v : Nat} (hn : 1 ≤ n) : ndigits v ≤ n ↔ v < 16 ^ n := by
  unfold ndigits
  induction n, hn using Nat.le_induction generalizing v with
  | base =>
    by_cases h : v < 16
    · simp [digits_of_lt h, h]
    · have := List.length_pos_iff.2 (digits_ne_nil (v / 16))
      rw [digits_of_le (by omega), List.length_cons]
      omega
  | succ n hn ih =>
    by_cases h : v < 16
    · have := Nat.one_lt_pow (n := n) (a := 16) (by omega) (by omega)
      simp only [digits_of_lt h, List.length_singleton, Nat.pow_succ]
      omega
    · rw [digits_of_le (by omega), List.length_cons, Nat.add_le_add_iff_right, ih, Nat.pow_succ]
      omega

/-- Settles O25: the count is least because it is at most `n` exactly when `v < 16 ^ n`. -/
theorem digitCountIsLeast : Obligations.DigitCountIsLeast := by
  unfold Obligations.DigitCountIsLeast
  intro v
  have h1 : 1 ≤ ndigits v := List.length_pos_iff.2 (digits_ne_nil v)
  refine ⟨h1, (ndigits_le_iff h1).1 le_rfl, fun n hn => (ndigits_le_iff hn).2, fun h => ?_⟩
  exact (ndigits_le_iff (by omega)).2 (by simpa using h)

/-- Settles O26: the digit sum of the digits is the value, and 32 bits hold it. -/
theorem valueOfDigitsIsIdentity : Obligations.ValueOfDigitsIsIdentity := by
  unfold Obligations.ValueOfDigitsIsIdentity
  intro v h
  rw [value_digits, BitVec.toNat_ofNat, Nat.mod_eq_of_lt h]

theorem exec_encMeasurement_eq (v : U32) (s : State) :
    exec (.encMeasurement v) s = .next (s.returnEncoded (encodeMeasurement s.cfg v.toNat)) := rfl

theorem exec_encEndOfTraining_eq (s : State) :
    exec .encEndOfTraining s = .next (s.returnEncoded (encodeEndOfTraining s.cfg)) := rfl

/-- Settles O23, by the recursion of the digits. -/
theorem encMeasurementEmitsDigits : Obligations.EncMeasurementEmitsDigits := by
  unfold Obligations.EncMeasurementEmitsDigits
  refine ⟨fun s v => exec_encMeasurement_eq v s, fun n => digits_of_lt, fun n h => ?_, toNat_nibbleByte⟩
  have hmod : BitVec.ofNat 4 (n % 16) = BitVec.ofNat 4 n := BitVec.eq_of_toNat_eq (by simp)
  rw [hmod, digits_of_le h]

/-- Settles O24: the operation gives back the bare `MEASURED`. -/
theorem encEndOfTrainingEmitsMeasured : Obligations.EncEndOfTrainingEmitsMeasured := by
  unfold Obligations.EncEndOfTrainingEmitsMeasured
  intro s
  rw [exec_encEndOfTraining_eq, State.returnEncoded, encodeEndOfTraining]

/-- Settles O27: the digit bytes are of class `NIBBLE`, and the markers are no digit bytes and differ. -/
theorem encoderEmitsOnlyGroups : Obligations.EncoderEmitsOnlyGroups := by
  unfold Obligations.EncoderEmitsOnlyGroups
  intro c v
  obtain ⟨-, -, -, -, hs16, -, hf16, hsm, -, hmf⟩ := c.facts
  refine ⟨(digits v).map nibbleByte, by simpa using digits_ne_nil v, rfl, fun b hb => ?_, fun b hb => ?_⟩
  · obtain ⟨n, -, rfl⟩ := List.mem_map.1 hb
    exact ⟨n, classify_nibbleByte c n, by rw [toNat_nibbleByte]; exact Nat.le_of_lt_succ n.isLt⟩
  · rcases List.mem_append.1 hb with hb | hb
    · obtain ⟨n, -, rfl⟩ := List.mem_map.1 hb
      exact ⟨nibbleByte_ne_marker n hs16, nibbleByte_ne_marker n hf16, by simp⟩
    · obtain rfl := List.mem_singleton.1 hb
      exact ⟨hsm.symm, hmf, by simp⟩

variable (c : Config)

/-- In `Training` an encoded measurement adds its value to the measurements and reports nothing. -/
theorem decodeFrom_encodeMeasurement (dn : List U32) (v : Nat) (bs : List Byte) :
    decodeFrom c { phase := .training, pending := [], done := dn } (encodeMeasurement c v ++ bs) =
      decodeFrom c { phase := .training, pending := [], done := dn ++ [BitVec.ofNat 32 v] } bs := by
  rw [encodeMeasurement, List.append_assoc, List.singleton_append, decodeFrom_group c dn (digits_ne_nil v),
    value_digits]

/-- Settles O28: `START`, then a group for each measurement, then the bare `MEASURED`. -/
theorem encodedTupleDecodes : Obligations.EncodedTupleDecodes := by
  unfold Obligations.EncodedTupleDecodes
  intro c m0 m1 m2
  rw [decodeFrom_reset_start, encodeTuple, encodeEndOfTraining, List.append_assoc, List.append_assoc]
  simp only [decodeFrom_encodeMeasurement, decodeFrom_measured_bare, BitVec.ofNat_toNat, BitVec.setWidth_eq]
  rfl

end Sys2Proof.Machine
end

section
/-! A decoder of the whole stream stays in step with the device (30_encoding.md R77, 46_telemetry_decoder.md R195). -/

namespace Sys2Proof.Machine

variable {s t : State}

/-- The telemetry invariant speaks of the configuration, the device and the stream alone. -/
theorem State.telemetryInv_congr (hc : t.cfg = s.cfg) (hd : t.dev = s.dev) (hs : t.stream = s.stream) :
    t.telemetryInv ↔ s.telemetryInv := by
  unfold State.telemetryInv
  rw [hc, hd, hs]

@[simp] theorem Device.finalizedSoFar_latch (d old : Device) (l : Bool) :
    (d.latch old l).finalizedSoFar = d.finalizedSoFar := rfl

/-- Counting the current slot leaves the finalized ones. -/
@[simp] theorem Device.finalizedSoFar_countSlot (d : Device) (c : Config) :
    (d.countSlot c).finalizedSoFar = d.finalizedSoFar := by
  rcases d.countSlot_cases c with ⟨hi, e⟩ | ⟨hi, e⟩ | ⟨hi, e⟩ <;> simp [e, Device.finalizedSoFar, hi]

/-- Advancing adds the slot left to the finalized ones. -/
theorem Device.finalizedSoFar_advance {d : Device} (h : d.idx ≠ .low1) :
    d.advance.finalizedSoFar = d.finalizedSoFar ++ [BitVec.ofNat 32 (d.meas d.idx)] := by
  rcases d.advance_cases with ⟨hi, e⟩ | ⟨hi, e⟩ | ⟨hi, -⟩
  · simp [e, Device.finalizedSoFar, hi, Device.meas]
  · simp [e, Device.finalizedSoFar, hi, Device.meas]
  · exact absurd hi h

/-- The third slot completes the finalized ones. -/
theorem Device.measurements_of_low1 {d : Device} (h : d.idx = .low1) :
    d.measurements = d.finalizedSoFar ++ [BitVec.ofNat 32 d.low1] := by
  simp [Device.measurements, Device.finalizedSoFar, h]

/-- `FINISH` outside `Idle` ends the cycle and is expected (R187, R190). -/
theorem decodeFrom_finish {c : Config} {S : Decoder} (h : S.phase ≠ .idle) :
    (decodeFrom c S [c.finish]).1.phase = .idle ∧ (decodeFrom c S [c.finish]).2 = [.finishStretching] := by
  rw [decodeFrom_cons, decodeFrom_nil]
  cases hp : S.phase with
  | idle => exact absurd hp h
  | training => rw [decStep_training_finish c hp]; exact ⟨rfl, rfl⟩
  | stretching => rw [decStep_stretching_finish c hp]; exact ⟨rfl, rfl⟩

theorem decodeFrom_start {c : Config} {S : Decoder} (h : S.phase = .idle) :
    decodeFrom c S [c.start] = ({ phase := .training, pending := [], done := [] }, [.startTraining]) := by
  rw [decodeFrom_cons, decStep_idle_start c h]
  rfl

/-- Every rule keeps the decoder of the stream in step: a silent one changes neither stream nor decoder, and what the
others emit is what the decoder expects next. -/
theorem Fires.keeps_telemetryInv {p l : Bool} {r : Device × List Byte} (hf : Fires s.cfg s.dev p r)
    (hi : s.telemetryInv) (hcfg : t.cfg = s.cfg) (hdev : t.dev = r.1.latch s.dev l) (htx : t.stream = s.stream ++ r.2) :
    t.telemetryInv := by
  unfold State.telemetryInv at hi ⊢
  simp only [hcfg, hdev, htx, decodeFrom_append]
  generalize decodeFrom s.cfg Decoder.reset s.stream = q at hi
  obtain ⟨S, ev⟩ := q
  obtain ⟨hev, hi⟩ := hi
  have expect (tx : List Event) (htx : ∀ e ∈ tx, e.expected = true) : ∀ e ∈ ev ++ tx, e.expected = true :=
    List.forall_mem_append.2 ⟨hev, htx⟩
  cases hf with
  | idle hst | awaitTraining hst | load hst | awaitStretch hst | loadHold hst | endHold hst | countDown hst
  | release hst | awaitRelease hst =>
    simp only [hst, decodeFrom_nil, List.append_nil, Device.latch_st] at hi ⊢
    exact ⟨hev, hi⟩
  | count hst =>
    simp only [hst, decodeFrom_nil, List.append_nil, Device.latch_st, Device.countSlot_st, Device.finalizedSoFar_latch,
      Device.finalizedSoFar_countSlot] at hi ⊢
    exact ⟨hev, hi⟩
  | press ha =>
    refine ⟨expect [] (by simp), ?_⟩
    show S.phase ≠ .idle
    rcases FsmState.abortable_cases ha with hst | hst | hst | hst | hst <;> simp only [hst] at hi <;> simp [hi]
  | start hst =>
    simp only [hst] at hi
    rw [decodeFrom_start hi]
    exact ⟨expect _ (by simp [Event.expected]), rfl⟩
  | advance hst he hj =>
    simp only [hst] at hi
    rw [hi, ← List.append_nil (encodeMeasurement _ _), decodeFrom_encodeMeasurement, decodeFrom_nil,
      ← Device.finalizedSoFar_advance hj]
    refine ⟨expect [] (by simp), ?_⟩
    simp only [Device.latch_st, Device.advance_st, hst, Device.finalizedSoFar_latch]
  | finishTraining hst he hj =>
    simp only [hst] at hi
    rw [hi, decodeFrom_encodeMeasurement, encodeEndOfTraining, decodeFrom_measured_bare,
      ← Device.measurements_of_low1 hj]
    exact ⟨expect _ (by simp [Event.expected]), rfl, ev, rfl⟩
  | abortReturn _ hst =>
    simp only [hst] at hi
    obtain ⟨hphase, hevents⟩ := decodeFrom_finish (c := s.cfg) hi
    exact ⟨expect _ (by simp [hevents, Event.expected]), hphase⟩

/-- Settles O51: a tick fires a rule, which keeps the invariant, and no other step writes what it speaks of. -/
theorem telemetryDecodesInStep : Obligations.TelemetryDecodesInStep := by
  unfold Obligations.TelemetryDecodesInStep
  intro s t hi hs
  rcases step_device_cases hs with ⟨l, p, r, -, hf, hdev, hstream⟩ | ⟨hdev, hstream⟩
  · exact hf.keeps_telemetryInv hi (step_cfg hs) hdev hstream
  · exact (State.telemetryInv_congr (step_cfg hs) hdev hstream).2 hi

/-! ### The channel between them -/

/-- A tick appends its burst to the stream and to the channel; the decoder is not asked. -/
theorem State.linkInv_commitTick {r : Device × List Byte} (h : s.linkInv) : (s.commitTick r).linkInv := by
  obtain ⟨taken, hst, hdec⟩ := h
  exact ⟨taken, by simp [hst], hdec⟩

/-- A delivered byte goes from the front of the channel to the end of what the decoder has taken. -/
theorem State.linkInv_receive {b : Byte} {bs : List Byte} (h : s.linkInv) (hc : s.channel = b :: bs) :
    ((s.leaveInChannel bs).receive b).linkInv := by
  obtain ⟨taken, hst, hdec⟩ := h
  refine ⟨taken ++ [b], by simp [hst, hc], ?_⟩
  show decodeFrom s.cfg Decoder.reset (taken ++ [b]) = _
  rw [decodeFrom_append, hdec, decodeFrom_cons, decodeFrom_nil, List.append_nil]
  rfl

/-- The link speaks of the configuration, stream, channel, decoder and events alone. -/
theorem State.linkInv_congr (hcfg : t.cfg = s.cfg) (hst : t.stream = s.stream) (hch : t.channel = s.channel)
    (hdec : t.dec = s.dec) (hev : t.events = s.events) : t.linkInv ↔ s.linkInv := by
  unfold State.linkInv
  rw [hcfg, hst, hch, hdec, hev]

theorem State.linkInv_dropStimulus : s.dropStimulus.linkInv ↔ s.linkInv := by
  apply State.linkInv_congr <;> simp

/-- Settles O52: a tick appends at the end of the channel, a delivery takes from its front, and the other steps
that the premises leave write neither. -/
theorem decoderTakesStreamInOrder : Obligations.DecoderTakesStreamInOrder := by
  unfold Obligations.DecoderTakesStreamInOrder
  intro s t hi hw hf hs
  have hd := State.linkInv_dropStimulus.2 hi
  rcases step_cases hs with
    ⟨l, p, r, -, -, rfl⟩ | ⟨-, -, rfl⟩ | ⟨b, bs, -, hc, rfl⟩ | ⟨b, hn, -⟩ | ⟨r, e, -, rfl⟩ | ⟨-, rfl⟩ |
    ⟨v, -, rfl⟩ | ⟨-, rfl⟩ | ⟨hn, -⟩
  · exact State.linkInv_commitTick (s := s.dropStimulus.sample l p) hd
  · exact hd
  · exact State.linkInv_receive hd (by rw [dropStimulus_channel, hc])
  · exact absurd hn (hw b)
  · exact hd
  · exact hd
  · exact hd
  · exact hd
  · exact absurd hn hf

/-- Settles O53: the events are the first of those of the whole stream, which are all expected. -/
theorem noUnhandledFromDevice : Obligations.NoUnhandledFromDevice := by
  unfold Obligations.NoUnhandledFromDevice
  rintro s ⟨hev, -⟩ ⟨taken, hst, hdec⟩ e he
  rw [hst, decodeFrom_append, hdec] at hev
  exact hev e (List.mem_append_left _ he)

end Sys2Proof.Machine
end

section
/-! Stale registers never show (10_state.md R36): the rules do not read them, and load them before they are live. -/

namespace Sys2Proof.Machine

/-- The two devices agree on every register that is not stale. -/
def Device.sameLive (d e : Device) : Prop :=
  d.st = e.st ∧ d.cur = e.cur ∧ d.prev = e.prev ∧
  (d.st.measuring = true → d.idx = e.idx ∧ d.low0 = e.low0 ∧ d.high0 = e.high0 ∧ d.low1 = e.low1) ∧
  (d.st = .holding → d.hold = e.hold)

theorem sameButStale_iff {s t : State} : sameButStale s t ↔
    { s with dev := t.dev } = t ∧ s.dev.sameLive t.dev := Iff.rfl

/-- In a measuring state devices that agree on the live registers differ in `hold` at most. -/
theorem Device.eq_of_sameLive {d e : Device} (h : d.sameLive e) (hm : d.st.measuring = true) :
    e = { d with hold := e.hold } := by
  obtain ⟨hst, hcur, hprev, hmeas, -⟩ := h
  obtain ⟨hidx, h0, h1, h2⟩ := hmeas hm
  rw [hst, hcur, hprev, hidx, h0, h1, h2]

theorem Device.sameLive_with_hold {d : Device} {h : Nat} (hst : d.st ≠ .holding) : d.sameLive { d with hold := h } :=
  ⟨rfl, rfl, rfl, fun _ => ⟨rfl, rfl, rfl, rfl⟩, fun h => absurd h hst⟩

@[simp] theorem Device.countSlot_with_hold (d : Device) (c : Config) (h : Nat) :
    { d with hold := h }.countSlot c = { d.countSlot c with hold := h } := by
  rcases hi : d.idx <;> simp [Device.countSlot, hi, Device.setMeas, Device.meas]

@[simp] theorem Device.advance_with_hold (d : Device) (h : Nat) :
    { d with hold := h }.advance = { d.advance with hold := h } := by
  rcases hi : d.idx <;> simp [Device.advance, hi, Device.setMeas, MeasIdx.next]

@[simp] theorem Device.meas_with_hold (d : Device) (h : Nat) (i : MeasIdx) :
    { d with hold := h }.meas i = d.meas i := by
  cases i <;> rfl

/-- From two devices that agree on the live registers the same rule fires, with the same burst, and leaves such
devices. -/
theorem Fires.sameLive {c : Config} {d e : Device} {p : Bool} {r : Device × List Byte} (h : Fires c d p r)
    (hl : d.sameLive e) (l : Bool) :
    ∃ d', Fires c e p (d', r.2) ∧ (r.1.latch d l).sameLive (d'.latch e l) := by
  have hold := Device.eq_of_sameLive hl
  have hlive := hl
  obtain ⟨hst', hcur, hprev, hmeas, hhold⟩ := hl
  cases h with
  | start hst => exact ⟨_, .start (hst' ▸ hst), rfl, rfl, hcur, nofun, nofun⟩
  | idle hst => exact ⟨_, .idle (hst' ▸ hst), hst', rfl, hcur, hmeas, hhold⟩
  | press ha => exact ⟨_, .press (hst' ▸ ha), rfl, rfl, hcur, nofun, nofun⟩
  | load hst h1 h0 =>
    exact ⟨_, .load (hst' ▸ hst) (hprev ▸ h1) (hcur ▸ h0), rfl, rfl, hcur, fun _ => ⟨rfl, rfl, rfl, rfl⟩, nofun⟩
  | awaitTraining hst hf =>
    exact ⟨_, .awaitTraining (hst' ▸ hst) (hprev ▸ hcur ▸ hf), hst', rfl, hcur, hmeas, hhold⟩
  | count hst he =>
    rw [hold (by rw [hst]; rfl)]
    exact ⟨_, .count hst he, by simp, rfl, rfl, fun _ => by simp, by simp [hst]⟩
  | advance hst he hi =>
    rw [hold (by rw [hst]; rfl), ← d.meas_with_hold e.hold]
    exact ⟨_, .advance hst he hi, by simp, rfl, rfl, fun _ => by simp, by simp [hst]⟩
  | finishTraining hst he hi =>
    rw [hold (by rw [hst]; rfl)]
    exact ⟨_, .finishTraining hst he hi, rfl, rfl, rfl, fun _ => ⟨rfl, rfl, rfl, rfl⟩, nofun⟩
  | loadHold hst h1 h0 =>
    rw [hold (by rw [hst]; rfl)]
    exact ⟨_, .loadHold hst h1 h0, rfl, rfl, rfl, fun _ => ⟨rfl, rfl, rfl, rfl⟩, fun _ => rfl⟩
  | awaitStretch hst hf =>
    exact ⟨_, .awaitStretch (hst' ▸ hst) (hprev ▸ hcur ▸ hf), hst', rfl, hcur, hmeas, hhold⟩
  | endHold hst hh =>
    exact ⟨_, .endHold (hst' ▸ hst) (hhold hst ▸ hh), rfl, rfl, hcur, fun _ => hmeas (by rw [hst]; rfl), nofun⟩
  | countDown hst hh =>
    exact ⟨_, .countDown (hst' ▸ hst) (hhold hst ▸ hh), hst', rfl, hcur, hmeas, fun _ => congrArg (· - 1) (hhold hst)⟩
  | release hst hc =>
    exact ⟨_, .release (hst' ▸ hst) (hcur ▸ hc), rfl, rfl, hcur, fun _ => hmeas (by rw [hst]; rfl), nofun⟩
  | awaitRelease hst hc =>
    exact ⟨_, .awaitRelease (hst' ▸ hst) (hcur ▸ hc), hst', rfl, hcur, hmeas, hhold⟩
  | abortReturn _ hst => exact ⟨_, .abortReturn _ (hst' ▸ hst), rfl, rfl, hcur, nofun, nofun⟩

theorem dropStimulus_with_dev (s : State) (e : Device) :
    { s with dev := e }.dropStimulus = { s.dropStimulus with dev := e } := by
  rcases hs : s.stimulus <;> simp [State.dropStimulus, hs]

/-- A step that is no tick neither reads nor writes the device (R35). -/
theorem step_with_dev {s t : State} (e : Device) (h : ∀ l p, s.nextStimulus ≠ .tick l p) (hs : step s = .next t) :
    step { s with dev := e } = .next { t with dev := e } := by
  have same : { s with dev := e }.nextStimulus = s.nextStimulus := rfl
  rcases step_cases hs with
    ⟨l, p, r, hn, -, -⟩ | ⟨hn, hc, rfl⟩ | ⟨b, bs, hn, hc, rfl⟩ | ⟨b, hn, rfl⟩ | ⟨r, en, hn, rfl⟩ | ⟨hn, rfl⟩ |
    ⟨v, hn, rfl⟩ | ⟨hn, rfl⟩ | ⟨hn, rfl⟩
  · exact absurd hn (h l p)
  · rw [step_deliver_nil (same.trans hn) hc, dropStimulus_with_dev]
  · rw [step_deliver_cons (same.trans hn) hc, dropStimulus_with_dev]; rfl
  · rw [step_wireByte (same.trans hn), dropStimulus_with_dev]; rfl
  · rw [step_tcCommand (same.trans hn), dropStimulus_with_dev]; rfl
  · rw [step_tcRead (same.trans hn), dropStimulus_with_dev]; rfl
  · rw [step_encodeMeasurement (same.trans hn), dropStimulus_with_dev]; rfl
  · rw [step_encodeEndOfTraining (same.trans hn), dropStimulus_with_dev]; rfl
  · rw [step_freshDecoder (same.trans hn), dropStimulus_with_dev]; rfl

/-- Settles O54: at a tick the same rule fires in both states, and no other step has to do with the device. -/
theorem staleRegistersNeverShow : Obligations.StaleRegistersNeverShow := by
  unfold Obligations.StaleRegistersNeverShow
  intro s t s' t' h hs ht
  obtain ⟨heq, hl⟩ := sameButStale_iff.1 h
  obtain ⟨e, rfl⟩ : ∃ e, t = { s with dev := e } := ⟨t.dev, heq.symm⟩
  by_cases hn : ∃ l p, s.nextStimulus = .tick l p
  · obtain ⟨l, p, hn⟩ := hn
    obtain ⟨r, hf, rfl⟩ := fires_of_step hn hs
    obtain ⟨d', hf', hl'⟩ := hf.sameLive hl l
    rw [step_of_fires (s := { s with dev := e }) hn hf', dropStimulus_with_dev] at ht
    cases ht
    refine sameButStale_iff.2 ⟨?_, by simpa using hl'⟩
    simp [State.commitTick, State.sample, Device.lineOverride, hl.1]
  · have hn : ∀ l p, s.nextStimulus ≠ .tick l p := by simpa using hn
    rw [step_with_dev e hn hs] at ht
    cases ht
    refine sameButStale_iff.2 ⟨rfl, ?_⟩
    rw [(step_keeps_device hn hs).1]
    exact hl

end Sys2Proof.Machine
end

section
/-! Widths of registers and bursts (00_scope.md section 4, 20_memory.md R55, 44_hold_timer.md R147). -/

namespace Sys2Proof.Machine

/-- A value that fits `TICK_MAX` has at most `ceil(W / 4)` digits. -/
theorem ndigits_le_of_le_tickMax {c : Config} {v : Nat} (h : v ≤ c.tickMax) : ndigits v ≤ (c.W + 3) / 4 := by
  obtain ⟨hW, -, -, hmax, -⟩ := c.facts
  have hpos := Nat.two_pow_pos c.W
  rw [ndigits_le_iff (by omega)]
  calc v < 2 ^ c.W := by omega
    _ ≤ 2 ^ (4 * ((c.W + 3) / 4)) := Nat.pow_le_pow_right (by omega) (by omega)
    _ = 16 ^ ((c.W + 3) / 4) := Nat.pow_mul 2 4 _

theorem encodeMeasurement_length (c : Config) (v : Nat) : (encodeMeasurement c v).length = ndigits v + 1 := by
  simp [encodeMeasurement, ndigits]

/-- The slots of a device that meets the invariant are at most `TICK_MAX`. -/
theorem Device.meas_le_of_inv {c : Config} {d : Device} (h : d.inv c) (i : MeasIdx) : d.meas i ≤ c.tickMax := by
  obtain ⟨h0, h1, h2, -⟩ := h
  cases i
  · exact h0
  · exact h1
  · exact h2

/-- The longest burst is the third measurement with the end of training. -/
theorem Fires.burst_length_le {c : Config} {d : Device} {p : Bool} {r : Device × List Byte} (h : Fires c d p r)
    (hi : d.inv c) : r.2.length ≤ (c.W + 3) / 4 + 2 := by
  have hdig (i : MeasIdx) := ndigits_le_of_le_tickMax (Device.meas_le_of_inv hi i)
  cases h with
  | start | abortReturn => simp
  | advance hst he hj =>
    have := hdig d.idx
    simp only [encodeMeasurement_length]
    omega
  | finishTraining hst he hj =>
    have : ndigits d.low1 ≤ _ := hdig .low1
    simp only [List.length_append, encodeMeasurement_length, encodeEndOfTraining, List.length_singleton]
    omega
  | _ => simp

/-- Settles O50: `TICK_MAX` fits `W` bits, and its digits the burst. -/
theorem registersAndBurstsFit : Obligations.RegistersAndBurstsFit := by
  unfold Obligations.RegistersAndBurstsFit
  intro s hi
  obtain ⟨-, -, -, hmax, -⟩ := s.cfg.facts
  have hpos := Nat.two_pow_pos s.cfg.W
  have ⟨h0, h1, h2, hh, _⟩ := hi
  refine ⟨by omega, by omega, by omega, ?_, fun l p t hn hs => ?_⟩
  · rw [Config.holdW, Nat.pow_succ]
    omega
  · obtain ⟨r, hf, rfl⟩ := fires_of_step hn hs
    exact hf.burst_length_le hi

end Sys2Proof.Machine
end

section
/-! The rows of the operation table and the words of the operations (30_encoding.md R70 to R95). -/

namespace Sys2Proof

variable (c : Config)

/-! ### The `dec_byte` rows of each phase -/

@[simp] theorem decode_decByteWord_idle (b : Byte) (pe : Bool) :
    decode c (.decByte (decByteWord 0b00#2 b) pe) = .ok (decodeIdleByte c b) := by
  simp [decode, decodeDecByte]

@[simp] theorem decode_decByteWord_training (b : Byte) (pe : Bool) :
    decode c (.decByte (decByteWord 0b01#2 b) pe) = .ok (decodeTrainingByte c b pe) := by
  simp [decode, decodeDecByte]

@[simp] theorem decode_decByteWord_stretching (b : Byte) (pe : Bool) :
    decode c (.decByte (decByteWord 0b10#2 b) pe) = .ok (decodeStretchingByte c b) := by
  simp [decode, decodeDecByte]

@[simp] theorem decode_decByteWord_unused (b : Byte) (pe : Bool) :
    decode c (.decByte (decByteWord 0b11#2 b) pe) = .error .unusedPhaseCode := by
  simp [decode, decodeDecByte]

@[simp] theorem decodeIdleByte_start : decodeIdleByte c c.start = .decIdleStart := by
  simp [decodeIdleByte]

theorem decodeIdleByte_other {b : Byte} (h : b ≠ c.start) : decodeIdleByte c b = .decIdleOther b := by
  rcases classify_cases c b with ⟨n, -, -, e⟩ | ⟨hs, -⟩ | ⟨-, e⟩ | ⟨-, e⟩ | ⟨-, -, -, -, e⟩
  · simp [decodeIdleByte, e]
  · exact absurd hs h
  all_goals simp [decodeIdleByte, e]

@[simp] theorem decodeTrainingByte_nibble (n : Nibble) (pe : Bool) :
    decodeTrainingByte c (nibbleByte n) pe = .decTrainingNibble n := by
  simp [decodeTrainingByte]

@[simp] theorem decodeTrainingByte_measured (pe : Bool) : decodeTrainingByte c c.measured pe =
    if pe then .decTrainingMeasuredBare else .decTrainingMeasuredGroup := by
  simp [decodeTrainingByte]

@[simp] theorem decodeTrainingByte_finish (pe : Bool) : decodeTrainingByte c c.finish pe = .decTrainingFinish := by
  simp [decodeTrainingByte]

theorem decodeTrainingByte_other {b : Byte} (pe : Bool) (h16 : 16 ≤ b.toNat) (hm : b ≠ c.measured)
    (hf : b ≠ c.finish) : decodeTrainingByte c b pe = .decTrainingOther b := by
  rcases classify_cases c b with ⟨n, -, h15, -⟩ | ⟨-, e⟩ | ⟨h, -⟩ | ⟨h, -⟩ | ⟨-, -, -, -, e⟩
  · omega
  · simp [decodeTrainingByte, e]
  · exact absurd h hm
  · exact absurd h hf
  · simp [decodeTrainingByte, e]

@[simp] theorem decodeStretchingByte_finish : decodeStretchingByte c c.finish = .decStretchingFinish := by
  simp [decodeStretchingByte]

theorem decodeStretchingByte_other {b : Byte} (h : b ≠ c.finish) :
    decodeStretchingByte c b = .decStretchingOther b := by
  rcases classify_cases c b with ⟨n, -, -, e⟩ | ⟨-, e⟩ | ⟨-, e⟩ | ⟨hf, -⟩ | ⟨-, -, -, -, e⟩
  case inr.inr.inr.inl => exact absurd hf h
  all_goals simp [decodeStretchingByte, e]

@[simp] theorem decode_wireByte_nibble (n : Nibble) : decode c (.wireByte (nibbleByte n)) = .ok (.wireNibble n) := by
  simp [decode, decodeWireByte]

@[simp] theorem decode_wireByte_start : decode c (.wireByte c.start) = .ok .wireStart := by
  simp [decode, decodeWireByte]

@[simp] theorem decode_wireByte_measured : decode c (.wireByte c.measured) = .ok .wireMeasured := by
  simp [decode, decodeWireByte]

@[simp] theorem decode_wireByte_finish : decode c (.wireByte c.finish) = .ok .wireFinish := by
  simp [decode, decodeWireByte]

/-- Settles O5: the formats without operand decode by computation, those with a byte by its row. -/
theorem decodeEncodeRoundTrip : Obligations.DecodeEncodeRoundTrip := by
  unfold Obligations.DecodeEncodeRoundTrip
  intro c i h
  cases i with
  | tcReset en => cases en <;> rfl
  | decIdleOther b =>
    have hs : b ≠ c.start := by simpa [Instr.wellFormed] using h
    simp [encode, decodeIdleByte_other c hs]
  | decTrainingOther b =>
    obtain ⟨⟨h16, hm⟩, hf⟩ : (16 ≤ b.toNat ∧ b ≠ c.measured) ∧ b ≠ c.finish := by simpa [Instr.wellFormed] using h
    simp [encode, decodeTrainingByte_other c true h16 hm hf]
  | decStretchingOther b =>
    have hf : b ≠ c.finish := by simpa [Instr.wellFormed] using h
    simp [encode, decodeStretchingByte_other c hf]
  | decIdleStart | decTrainingNibble | decTrainingMeasuredGroup | decTrainingMeasuredBare | decTrainingFinish
  | decStretchingFinish | wireNibble | wireStart | wireMeasured | wireFinish => simp [encode]
  | _ => rfl

theorem append_eq_decByteWord (p : BitVec 2) (b : Byte) : (p ++ b : BitVec 10) = decByteWord p b := rfl

/-- The row of a digit in `Training` with its six fixed bits. -/
theorem decByteWord_nibbleByte (n : Nibble) : decByteWord 0b01#2 (nibbleByte n) = 0b010000#6 ++ n := by
  revert n; decide

/-- Settles O4: row by row, the words being put together as the lemmas on the rows have them. -/
theorem selectorRows : Obligations.SelectorRows := by
  unfold Obligations.SelectorRows
  intro c pe
  refine ⟨rfl, rfl, rfl, rfl, rfl, fun _ => rfl, fun _ => rfl, rfl, rfl, rfl, rfl, rfl, rfl, rfl, ?_⟩
  simp only [← nibbleByte_eq_append, ← decByteWord_nibbleByte, append_eq_decByteWord]
  refine ⟨by simp, fun b h => by simp [decodeIdleByte_other c h], fun n => by simp, by simp, by simp, by simp,
    fun b h16 hm hf => by simp [decodeTrainingByte_other c pe h16 hm hf], by simp,
    fun b h => by simp [decodeStretchingByte_other c h], fun n => by simp, by simp, by simp, by simp⟩

/-! ### From words back -/

theorem eq_of_two_bits (w : BitVec 2) : w = 0b00#2 ∨ w = 0b01#2 ∨ w = 0b10#2 ∨ w = 0b11#2 := by
  revert w; decide

theorem eq_of_three_bits (w : BitVec 3) :
    w = 0#3 ∨ w = 1#3 ∨ w = 2#3 ∨ w = 3#3 ∨ w = 4#3 ∨ w = 5#3 ∨ w = 6#3 ∨ w = 7#3 := by
  revert w; decide

/-- A `dec_byte` word by its phase code. -/
theorem decByteWord_cases (w : BitVec 10) :
    ∃ b, w = decByteWord 0b00#2 b ∨ w = decByteWord 0b01#2 b ∨ w = decByteWord 0b10#2 b ∨ w = decByteWord 0b11#2 b := by
  refine ⟨w.extractLsb' 0 8, ?_⟩
  have hw := eq_decByteWord w
  rcases eq_of_two_bits (w.extractLsb' 8 2) with h | h | h | h <;> rw [h] at hw
  · exact .inl hw
  · exact .inr (.inl hw)
  · exact .inr (.inr (.inl hw))
  · exact .inr (.inr (.inr hw))

/-- The operation read from a `dec_byte` word is well formed and encoded as that word, and for the two `MEASURED` rows
with the side condition it was read with. -/
def RoundTrips (c : Config) (i : Instr) (w : BitVec 10) (pe : Bool) : Prop :=
  i.wellFormed c = true ∧ ∃ pe', encode c i = .decByte w pe' ∧
    (i = .decTrainingMeasuredGroup ∨ i = .decTrainingMeasuredBare → pe' = pe)

theorem decodeIdleByte_roundTrips (b : Byte) (pe : Bool) :
    RoundTrips c (decodeIdleByte c b) (decByteWord 0b00#2 b) pe := by
  by_cases h : b = c.start
  · subst h
    rw [decodeIdleByte_start]
    exact ⟨rfl, true, rfl, by simp⟩
  · rw [decodeIdleByte_other c h]
    exact ⟨by simp [Instr.wellFormed, h], true, rfl, by simp⟩

theorem decodeTrainingByte_roundTrips (b : Byte) (pe : Bool) :
    RoundTrips c (decodeTrainingByte c b pe) (decByteWord 0b01#2 b) pe := by
  have other (h16 : 16 ≤ b.toNat) (hm : b ≠ c.measured) (hf : b ≠ c.finish) :
      RoundTrips c (decodeTrainingByte c b pe) (decByteWord 0b01#2 b) pe := by
    rw [decodeTrainingByte_other c pe h16 hm hf]
    exact ⟨by simp [Instr.wellFormed, h16, hm, hf], true, rfl, by simp⟩
  obtain ⟨-, -, -, -, hs16, -, -, hsm, hsf, -⟩ := c.facts
  rcases classify_cases c b with ⟨n, rfl, -, -⟩ | ⟨rfl, -⟩ | ⟨rfl, -⟩ | ⟨rfl, -⟩ | ⟨h16, -, hm, hf, -⟩
  · rw [decodeTrainingByte_nibble]
    exact ⟨rfl, true, rfl, by simp⟩
  · exact other hs16 hsm hsf
  · rw [decodeTrainingByte_measured]
    cases pe <;> exact ⟨rfl, _, rfl, fun _ => rfl⟩
  · rw [decodeTrainingByte_finish]
    exact ⟨rfl, true, rfl, by simp⟩
  · exact other h16 hm hf

theorem decodeStretchingByte_roundTrips (b : Byte) (pe : Bool) :
    RoundTrips c (decodeStretchingByte c b) (decByteWord 0b10#2 b) pe := by
  by_cases h : b = c.finish
  · subst h
    rw [decodeStretchingByte_finish]
    exact ⟨rfl, true, rfl, by simp⟩
  · rw [decodeStretchingByte_other c h]
    exact ⟨by simp [Instr.wellFormed, h], true, rfl, by simp⟩

/-- Settles O6: the few words of the formats without a byte one by one, the others by the class of their byte. -/
theorem encodeDecodeRoundTrip : Obligations.EncodeDecodeRoundTrip := by
  unfold Obligations.EncodeDecodeRoundTrip
  intro c i
  refine ⟨fun w h => ?_, fun w v h => ?_, fun w h => ?_, fun w pe h => ?_, fun b h => ?_⟩
  · rcases eq_of_two_bits w with rfl | rfl | rfl | rfl <;> cases h <;> exact ⟨rfl, rfl⟩
  · rcases BitVec.eq_zero_or_eq_one w with rfl | rfl <;> cases h
    · exact ⟨rfl, v, rfl, fun _ => rfl⟩
    · exact ⟨rfl, 0#32, rfl, nofun⟩
  · rcases eq_of_three_bits w with rfl | rfl | rfl | rfl | rfl | rfl | rfl | rfl <;> cases h <;> exact ⟨rfl, rfl⟩
  · obtain ⟨b, rfl | rfl | rfl | rfl⟩ := decByteWord_cases w
    · rw [decode_decByteWord_idle] at h; cases h
      exact decodeIdleByte_roundTrips c b pe
    · rw [decode_decByteWord_training] at h; cases h
      exact decodeTrainingByte_roundTrips c b pe
    · rw [decode_decByteWord_stretching] at h; cases h
      exact decodeStretchingByte_roundTrips c b pe
    · rw [decode_decByteWord_unused] at h; cases h
  · rcases classify_cases c b with ⟨n, rfl, -, -⟩ | ⟨rfl, -⟩ | ⟨rfl, -⟩ | ⟨rfl, -⟩ | ⟨-, -, -, -, e⟩
    case inr.inr.inr.inr => simp [decode, decodeWireByte, e] at h
    all_goals simp at h; subst h; exact ⟨rfl, rfl⟩

theorem toNat_decByteWord (p : BitVec 2) (b : Byte) : (decByteWord p b).toNat = p.toNat * 256 + b.toNat := by
  revert p b; decide

/-- A wire byte is refused exactly where it is of class `OTHER`. -/
theorem decode_wireByte_eq_error_iff (b : Byte) (e : DecodeError) : decode c (.wireByte b) = .error e ↔
    (16 ≤ b.toNat ∧ b ≠ c.start ∧ b ≠ c.measured ∧ b ≠ c.finish) ∧ e = .reservedWireByte b := by
  rcases classify_cases c b with ⟨n, rfl, -, -⟩ | ⟨rfl, -⟩ | ⟨rfl, -⟩ | ⟨rfl, -⟩ | ⟨h16, hs, hm, hf, hc⟩
  · have := n.isLt
    simp
    omega
  · simp
  · simp
  · simp
  · simp [decode, decodeWireByte, hc, h16, hs, hm, hf, eq_comm]

/-- Settles O7: format by format, by the word, the phase code or the class of the byte. -/
theorem reservedWordsRejected : Obligations.ReservedWordsRejected := by
  unfold Obligations.ReservedWordsRejected
  intro c e
  refine ⟨nofun, nofun, nofun, fun w => ?_, fun w pe => ?_, fun b => decode_wireByte_eq_error_iff c b e⟩
  · rcases eq_of_three_bits w with rfl | rfl | rfl | rfl | rfl | rfl | rfl | rfl <;>
      simp [decode, decodeFsmState, eq_comm]
  · obtain ⟨b, rfl | rfl | rfl | rfl⟩ := decByteWord_cases w <;> have := b.isLt
    · simp [toNat_decByteWord]; omega
    · simp [toNat_decByteWord]; omega
    · simp [toNat_decByteWord]; omega
    · simp [toNat_decByteWord, eq_comm]

/-- Settles O3, each word by computation. -/
theorem tableWordsDecode : Obligations.TableWordsDecode := by
  unfold Obligations.TableWordsDecode
  exact ⟨rfl, rfl, rfl, rfl, rfl, rfl, rfl, rfl, rfl, rfl, rfl, rfl⟩

/-! ### The byte alphabet (R61) -/

/-- The values a filtered range lists are as many as their set has. -/
theorem length_filter_range (n : Nat) (p : Nat → Bool) :
    ((List.range n).filter p).length = {k ∈ Finset.range n | p k}.card := by
  rw [← List.toFinset_card_of_nodup (List.nodup_range.filter p)]
  congr 1
  ext k
  simp

/-- The three markers as numbers. -/
def Config.markers (c : Config) : Finset Nat := {c.start.toNat, c.measured.toNat, c.finish.toNat}

theorem Config.markers_card : c.markers.card = 3 := by
  obtain ⟨-, -, -, -, -, -, -, hsm, hsf, hmf⟩ := c.facts
  refine Finset.card_eq_three.2 ⟨_, _, _, ?_, ?_, ?_, rfl⟩ <;> rwa [Ne, BitVec.toNat_inj]

theorem Config.markers_subset : c.markers ⊆ Finset.Ico 16 256 := by
  obtain ⟨-, -, -, -, hs, hm, hf, -⟩ := c.facts
  have := c.start.isLt
  have := c.measured.isLt
  have := c.finish.isLt
  intro n hn
  simp only [Config.markers, Finset.mem_insert, Finset.mem_singleton] at hn
  rw [Finset.mem_Ico]
  omega

/-- The class of a byte by its value. -/
theorem classify_ofNat_cases {n : Nat} (h : n < 256) :
    (n < 16 ∧ ∃ d, classify c (BitVec.ofNat 8 n) = .nibble d) ∨
    (16 ≤ n ∧ n ∈ c.markers ∧
      (classify c (BitVec.ofNat 8 n) = .start ∨ classify c (BitVec.ofNat 8 n) = .measured ∨
        classify c (BitVec.ofNat 8 n) = .finish)) ∨
    (16 ≤ n ∧ n ∉ c.markers ∧ ∃ b, classify c (BitVec.ofNat 8 n) = .other b) := by
  have hn : (BitVec.ofNat 8 n).toNat = n := by simpa using h
  have hmem : n ∈ c.markers ↔
      BitVec.ofNat 8 n = c.start ∨ BitVec.ofNat 8 n = c.measured ∨ BitVec.ofNat 8 n = c.finish := by
    simp only [Config.markers, Finset.mem_insert, Finset.mem_singleton, ← BitVec.toNat_inj, hn]
  have hge (hm : n ∈ c.markers) : 16 ≤ n := (Finset.mem_Ico.1 (c.markers_subset hm)).1
  rcases classify_cases c (BitVec.ofNat 8 n) with ⟨d, -, h15, e⟩ | ⟨hb, e⟩ | ⟨hb, e⟩ | ⟨hb, e⟩ | ⟨h16, hs, hm, hf, e⟩
  · exact .inl ⟨by omega, d, e⟩
  · have hm := hmem.2 (.inl hb)
    exact .inr (.inl ⟨hge hm, hm, .inl e⟩)
  · have hm := hmem.2 (.inr (.inl hb))
    exact .inr (.inl ⟨hge hm, hm, .inr (.inl e)⟩)
  · have hm := hmem.2 (.inr (.inr hb))
    exact .inr (.inl ⟨hge hm, hm, .inr (.inr e)⟩)
  · exact .inr (.inr ⟨by omega, by simp [hmem, hs, hm, hf], _, e⟩)

/-- Settles O8: the digits are the values below 16, the others those from 16 on without the three markers. -/
theorem byteAlphabetCounts : Obligations.ByteAlphabetCounts := by
  unfold Obligations.ByteAlphabetCounts
  intro c
  refine ⟨?_, ?_, classify_start c, classify_measured c, classify_finish c⟩
  · rw [length_filter_range]
    calc _ = (Finset.Ico 16 256 \ c.markers).card := by
          congr 1
          ext n
          simp only [Finset.mem_filter, Finset.mem_range, Finset.mem_sdiff, Finset.mem_Ico]
          by_cases h : n < 256
          · rcases classify_ofNat_cases c h with ⟨h16, d, e⟩ | ⟨h16, hm, e | e | e⟩ | ⟨h16, hm, b, e⟩ <;>
              simp [*, Nat.not_le.2]
          · simp [h]
      _ = 237 := by rw [Finset.card_sdiff_of_subset c.markers_subset, c.markers_card, Nat.card_Ico]
  · rw [length_filter_range]
    calc _ = (Finset.range 16).card := by
          congr 1
          ext n
          simp only [Finset.mem_filter, Finset.mem_range]
          by_cases h : n < 256
          · rcases classify_ofNat_cases c h with ⟨h16, d, e⟩ | ⟨h16, hm, e | e | e⟩ | ⟨h16, hm, b, e⟩ <;>
              simp [*, Nat.not_lt.2]
          · simp only [h, false_and, false_iff]; omega
      _ = 16 := Finset.card_range 16

end Sys2Proof
end

section
/-! The rest of the decoder's rows: unexpected bytes, groups, the wire symbols, and the table of R192. -/

namespace Sys2Proof.Machine

variable (c : Config) {d : Decoder} {b : Byte}

/-! ### The rows of unexpected bytes, and of a digit -/

theorem decStep_idle_other (h : d.phase = .idle) (hb : b ≠ c.start) : decStep c d b = d.reportUnhandled .idle b := by
  rcases decStep_idle_cases c b h with ⟨hs, -⟩ | ⟨-, e⟩
  · exact absurd hs hb
  · exact e

theorem decStep_training_nibble (h : d.phase = .training) (n : Nibble) :
    decStep c d (nibbleByte n) = d.appendNibble n := by
  simp [decStep, h]

theorem decStep_training_other (h : d.phase = .training) (h16 : 16 ≤ b.toNat) (hm : b ≠ c.measured)
    (hf : b ≠ c.finish) : decStep c d b = d.reportUnhandled .training b := by
  rcases decStep_training_cases c b h with ⟨n, rfl, -⟩ | ⟨hb, -⟩ | ⟨hb, -⟩ | ⟨hb, -⟩ | ⟨-, -, -, e⟩
  · exact absurd rfl (nibbleByte_ne_marker n h16)
  · exact absurd hb hm
  · exact absurd hb hm
  · exact absurd hb hf
  · exact e

theorem decStep_stretching_other (h : d.phase = .stretching) (hb : b ≠ c.finish) :
    decStep c d b = d.reportUnhandled .stretching b := by
  rcases decStep_stretching_cases c b h with ⟨hf, -⟩ | ⟨-, e⟩
  · exact absurd hf hb
  · exact e

/-! ### The operations on the whole state -/

section Operations

variable (s : State) (b : Byte)

theorem exec_decIdleOther_eq : exec (.decIdleOther b) s = .next (s.commitByte (s.dec.reportUnhandled .idle b)) := rfl

theorem exec_decTrainingMeasuredGroup_eq :
    exec .decTrainingMeasuredGroup s = .next (s.commitByte s.dec.completeGroup) := rfl

theorem exec_decTrainingMeasuredBare_eq :
    exec .decTrainingMeasuredBare s = .next (s.commitByte s.dec.endTraining) := rfl

theorem exec_decTrainingOther_eq :
    exec (.decTrainingOther b) s = .next (s.commitByte (s.dec.reportUnhandled .training b)) := rfl

theorem exec_decStretchingFinish_eq : exec .decStretchingFinish s = .next (s.commitByte s.dec.endStretching) := rfl

theorem exec_decStretchingOther_eq :
    exec (.decStretchingOther b) s = .next (s.commitByte (s.dec.reportUnhandled .stretching b)) := rfl

/-- A reported byte changes the events and nothing else. -/
theorem State.commitByte_reportUnhandled (ph : Phase) :
    s.commitByte (s.dec.reportUnhandled ph b) = { s with events := s.events ++ [.unhandled ph b] } := rfl

end Operations

/-- Settles O38: the three operations commit a report. -/
theorem unexpectedBytesAreReported : Obligations.UnexpectedBytesAreReported := by
  unfold Obligations.UnexpectedBytesAreReported
  intro s b
  rw [exec_decIdleOther_eq, exec_decTrainingOther_eq, exec_decStretchingOther_eq]
  simp only [State.commitByte_reportUnhandled, implies_true, and_self]

/-- The digit sum is the fold of R186. -/
theorem digitSum_eq_foldr (p : List Nibble) : digitSum p = p.foldr (fun d acc => d.toNat + 16 * acc) 0 := by
  induction p with
  | nil => rfl
  | cons n p ih => rw [digitSum, ih, List.foldr_cons]

/-- Settles O40: the operation commits `completeGroup`, whose value is the digit sum modulo `2 ^ 32`. -/
theorem decTrainingMeasuredGroupOperation : Obligations.DecTrainingMeasuredGroupOperation := by
  unfold Obligations.DecTrainingMeasuredGroupOperation
  intro s _ _
  refine ⟨value s.dec.pending, by rw [value, BitVec.toNat_ofNat, digitSum_eq_foldr], ?_⟩
  rw [exec_decTrainingMeasuredGroup_eq, Decoder.completeGroup, State.commitByte_of_no_events]

/-- Settles O41: the operation commits `endTraining`, with its two events in order. -/
theorem decTrainingMeasuredBareOperation : Obligations.DecTrainingMeasuredBareOperation := by
  unfold Obligations.DecTrainingMeasuredBareOperation
  intro s _ _
  rw [exec_decTrainingMeasuredBare_eq, Decoder.endTraining, State.commitByte]

/-- Settles O43: the operation commits `endStretching`, which keeps the lists. -/
theorem decStretchingFinishOperation : Obligations.DecStretchingFinishOperation := by
  unfold Obligations.DecStretchingFinishOperation
  intro s _
  rw [exec_decStretchingFinish_eq, Decoder.endStretching, State.commitByte]

/-! ### The wire symbols -/

theorem exec_wireStart_eq (s : State) :
    exec .wireStart s = .next (s.commitByte (decStep s.cfg s.dec s.cfg.start)) := rfl

theorem exec_wireMeasured_eq (s : State) :
    exec .wireMeasured s = .next (s.commitByte (decStep s.cfg s.dec s.cfg.measured)) := rfl

theorem exec_wireFinish_eq (s : State) :
    exec .wireFinish s = .next (s.commitByte (decStep s.cfg s.dec s.cfg.finish)) := rfl

theorem exec_wireNibble_eq (n : Nibble) (s : State) :
    exec (.wireNibble n) s = .next (s.commitByte (decStep s.cfg s.dec (nibbleByte n))) := rfl

/-- Settles O44: a symbol commits the decoder's step on its byte, which is the row the phase selects. -/
theorem wireSymbolsRunDecoderRows : Obligations.WireSymbolsRunDecoderRows := by
  unfold Obligations.WireSymbolsRunDecoderRows
  intro s n
  obtain ⟨-, -, -, -, hs16, -, hf16, hsm, hsf, hmf⟩ := s.cfg.facts
  rw [exec_wireStart_eq, exec_wireMeasured_eq, exec_wireFinish_eq, exec_wireNibble_eq, ← nibbleByte_eq_append]
  refine ⟨⟨_, rfl⟩, ⟨_, rfl⟩, ⟨_, rfl⟩, ⟨_, rfl⟩, fun h => ⟨?_, ?_, ?_, ?_⟩,
    fun h => ⟨?_, fun hp => ?_, fun hp => ?_, ?_, ?_⟩, fun h => ⟨?_, ?_, ?_, ?_⟩⟩
  · rw [decStep_idle_start _ h, exec_decIdleStart_eq]
  · rw [decStep_idle_other _ h hsm.symm, exec_decIdleOther_eq]
  · rw [decStep_idle_other _ h hsf.symm, exec_decIdleOther_eq]
  · rw [decStep_idle_other _ h (nibbleByte_ne_marker n hs16), exec_decIdleOther_eq]
  · rw [decStep_training_other _ h hs16 hsm hsf, exec_decTrainingOther_eq]
  · rw [decStep_training_measured_group _ h hp, exec_decTrainingMeasuredGroup_eq]
  · rw [decStep_training_measured_bare _ h hp, exec_decTrainingMeasuredBare_eq]
  · rw [decStep_training_finish _ h, exec_decTrainingFinish_eq]
  · rw [decStep_training_nibble _ h, exec_decTrainingNibble_eq]
  · rw [decStep_stretching_other _ h hsf, exec_decStretchingOther_eq]
  · rw [decStep_stretching_other _ h hmf, exec_decStretchingOther_eq]
  · rw [decStep_stretching_finish _ h, exec_decStretchingFinish_eq]
  · rw [decStep_stretching_other _ h (nibbleByte_ne_marker n hf16), exec_decStretchingOther_eq]

/-! ### The transition table -/

/-- The model's step is the table of R192. -/
theorem decStep_eq_referenceByte (d : Decoder) (b : Byte) : decStep c d b = referenceByte c d b := by
  obtain ⟨-, -, -, -, -, hm16, hf16, -, -, hmf⟩ := c.facts
  cases h : d.phase with
  | idle =>
    rcases decStep_idle_cases c b h with ⟨hb, e⟩ | ⟨hb, e⟩ <;> rw [e]
    · simp [referenceByte, h, hb, Decoder.startTraining]
    · simp [referenceByte, h, hb, Decoder.reportUnhandled]
  | training =>
    rcases decStep_training_cases c b h with
      ⟨n, rfl, e⟩ | ⟨rfl, hp, e⟩ | ⟨rfl, hp, e⟩ | ⟨rfl, e⟩ | ⟨h16, hm, hf, e⟩ <;> rw [e]
    · have := n.isLt
      simp [referenceByte, h, Decoder.appendNibble, show n.toNat ≤ 15 by omega]
    · simp [referenceByte, h, hp, Decoder.completeGroup, show ¬ c.measured.toNat ≤ 15 by omega]
    · simp [referenceByte, h, hp, Decoder.endTraining, show ¬ c.measured.toNat ≤ 15 by omega]
    · simp [referenceByte, h, hmf.symm, Decoder.abortTraining, show ¬ c.finish.toNat ≤ 15 by omega]
    · simp [referenceByte, h, hm, hf, Decoder.reportUnhandled, show ¬ b.toNat ≤ 15 by omega]
  | stretching =>
    rcases decStep_stretching_cases c b h with ⟨hb, e⟩ | ⟨hb, e⟩ <;> rw [e]
    · simp [referenceByte, h, hb, Decoder.endStretching]
    · simp [referenceByte, h, hb, Decoder.reportUnhandled]

/-- Settles O12: both stimuli hand the byte to the decoder's step, which is the table. -/
theorem decoderFollowsTransitionTable : Obligations.DecoderFollowsTransitionTable := by
  unfold Obligations.DecoderFollowsTransitionTable
  intro s b bs rest
  rw [← decStep_eq_referenceByte]
  refine ⟨rfl, fun h hc => ?_, fun h => ?_⟩ <;> obtain ⟨hn, hd⟩ := nextStimulus_cons h
  · rw [step_deliver_cons hn hc, hd]; rfl
  · rw [step_wireByte hn, hd]; rfl

/-! ### The causes of `Unhandled`, and decoding as a fold -/

/-- Settles O45: the report stands in the rows of unexpected bytes and in no other. -/
theorem unhandledCausesComplete : Obligations.UnhandledCausesComplete := by
  unfold Obligations.UnhandledCausesComplete
  intro c d b b' ph
  cases h : d.phase with
  | idle =>
    rcases decStep_idle_cases c b h with ⟨hb, e⟩ | ⟨hb, e⟩ <;> rw [e]
    · simp +contextual [hb]
    · simp +contextual [hb]
  | training =>
    rcases decStep_training_cases c b h with
      ⟨n, rfl, e⟩ | ⟨rfl, hp, e⟩ | ⟨rfl, hp, e⟩ | ⟨rfl, e⟩ | ⟨h16, hm, hf, e⟩ <;> rw [e]
    · have : ¬ 16 ≤ n.toNat := Nat.not_le.2 n.isLt
      simp +contextual [this]
    · simp +contextual
    · simp +contextual
    · simp +contextual
    · simp +contextual [h16, hm, hf]
  | stretching =>
    rcases decStep_stretching_cases c b h with ⟨hb, e⟩ | ⟨hb, e⟩ <;> rw [e]
    · simp +contextual [hb]
    · simp +contextual [hb]

/-- Settles O47: decoding a concatenation is decoding its parts in turn. -/
theorem decodingIsIncremental : Obligations.DecodingIsIncremental := by
  unfold Obligations.DecodingIsIncremental
  intro c bs cs b
  have hone (S : Decoder) : decodeFrom c S [b] = decStep c S b := by
    rw [decodeFrom_cons, decodeFrom_nil, List.append_nil]
  have happend (cs : List Byte) : decodeStream c (bs ++ cs) =
      decodeStream c bs ++ (decodeFrom c (decodeFrom c Decoder.reset bs).1 cs).2 := by
    rw [decodeStream, decodeFrom_append]; rfl
  refine ⟨rfl, ?_, ?_, happend cs, ⟨_, (happend cs).symm⟩⟩
  · rw [happend, hone]; rfl
  · rw [decodeFrom_append, hone]

end Sys2Proof.Machine
end

section
/-! The step as a whole, the reset state, and the stand-alone TickCounter (00_scope.md R2, 10_state.md R35, R40,
40_tick_counter.md). -/

namespace Sys2Proof.Machine

variable {s t : State}

/-! ### The step -/

/-- Settles O10: each stimulus has its step lemma, and in every device state some rule fires. -/
theorem stepNeverStops : Obligations.StepNeverStops := by
  unfold Obligations.StepNeverStops
  intro s
  rcases hn : s.nextStimulus with ⟨l, p⟩ | _ | b | ⟨r, e⟩ | _ | v | _ | _
  · obtain ⟨r, hf⟩ := exists_fires s.cfg s.dev p
    exact ⟨_, step_of_fires hn hf⟩
  · rcases hc : s.channel with _ | ⟨b, bs⟩
    · exact ⟨_, step_deliver_nil hn hc⟩
    · exact ⟨_, step_deliver_cons hn hc⟩
  · exact ⟨_, step_wireByte hn⟩
  · exact ⟨_, step_tcCommand hn⟩
  · exact ⟨_, step_tcRead hn⟩
  · exact ⟨_, step_encodeMeasurement hn⟩
  · exact ⟨_, step_encodeEndOfTraining hn⟩
  · exact ⟨_, step_freshDecoder hn⟩

/-- A step runs the operation read from the word its stimulus presents. -/
theorem step_of_decode {e : Stimulus} {rest : List Stimulus} {sel : Selector} {i : Instr} {u : State}
    (h : s.stimulus = e :: rest) (hp : { s with stimulus := rest }.present e = { sel := some sel, st := u })
    (hi : decode s.cfg sel = .ok i) : step s = exec i u := by
  obtain ⟨hn, hd⟩ := nextStimulus_cons h
  simp only [step, State.fetch, hn, hd, hp, hi]

/-- What a step does where its stimulus selects nothing. -/
theorem step_of_no_selector {e : Stimulus} {rest : List Stimulus} {u : State} (h : s.stimulus = e :: rest)
    (hp : { s with stimulus := rest }.present e = { sel := none, st := u }) : step s = .next u := by
  obtain ⟨hn, hd⟩ := nextStimulus_cons h
  simp only [step, State.fetch, hn, hd, hp]

/-- The side condition on `pending` as the statements write it. -/
theorem State.decByteSelector_eq (s : State) (b : Byte) :
    s.decByteSelector b = .decByte (decByteWord s.dec.phase.code b) (decide (s.dec.pending = [])) := by
  cases h : s.dec.pending <;> simp [State.decByteSelector, h]

/-- A byte from outside selects its wire symbol where it has one, else the row of the phase. -/
theorem State.wireSelector_cases (s : State) (b : Byte) :
    ((∃ i, decode s.cfg (.wireByte b) = .ok i) ∧ s.wireSelector b = .wireByte b) ∨
    ((∃ e, decode s.cfg (.wireByte b) = .error e) ∧ s.wireSelector b = s.decByteSelector b) := by
  rcases classify_cases s.cfg b with ⟨n, -, -, h⟩ | ⟨-, h⟩ | ⟨-, h⟩ | ⟨-, h⟩ | ⟨-, -, -, -, h⟩ <;>
    simp [decode, decodeWireByte, State.wireSelector, h]

/-- Settles O9: what each stimulus presents, with `step_of_decode`. -/
theorem stepRunsPresentedOperation : Obligations.StepRunsPresentedOperation := by
  unfold Obligations.StepRunsPresentedOperation
  intro s rest i
  refine ⟨fun l p h hi => step_of_decode h rfl hi, fun b bs h hc hi => ?_, fun h hc => ?_, fun b h hi => ?_,
    fun b h he hi => ?_, fun r e h hi => step_of_decode h rfl hi, fun h hi => step_of_decode h rfl hi,
    fun v h hi => step_of_decode h rfl hi, fun h hi => step_of_decode h rfl hi,
    fun h => step_of_no_selector h rfl, fun h => ?_⟩
  · rw [← State.decByteSelector_eq] at hi
    exact step_of_decode h (by simp only [State.present, hc]; rfl) hi
  · exact step_of_no_selector h (by simp only [State.present, hc])
  · rcases State.wireSelector_cases { s with stimulus := rest } b with ⟨-, hw⟩ | ⟨⟨e, he⟩, -⟩
    · exact step_of_decode h (by simp only [State.present, hw]) hi
    · exact absurd (hi.symm.trans he) nofun
  · rcases State.wireSelector_cases { s with stimulus := rest } b with ⟨⟨j, hj⟩, -⟩ | ⟨-, hw⟩
    · exact absurd (hj.symm.trans he) nofun
    · rw [← State.decByteSelector_eq] at hi
      exact step_of_decode h (by simp only [State.present, hw]; rfl) hi
  · simp only [step, State.fetch, State.nextStimulus, State.dropStimulus, h]

/-- What the decoder side keeps at a step that hands it no byte and does not replace it. -/
theorem step_keeps_decoder (hd : s.nextStimulus ≠ .deliver) (hw : ∀ b, s.nextStimulus ≠ .wireByte b)
    (hf : s.nextStimulus ≠ .freshDecoder) (hs : step s = .next t) : t.dec = s.dec ∧ t.events = s.events := by
  rcases step_cases hs with
    ⟨l, p, r, -, -, rfl⟩ | ⟨hn, -, -⟩ | ⟨b, bs, hn, -, -⟩ | ⟨b, hn, -⟩ | ⟨r, e, -, rfl⟩ | ⟨-, rfl⟩ |
    ⟨v, -, rfl⟩ | ⟨-, rfl⟩ | ⟨hn, -⟩
  case inr.inl | inr.inr.inl => exact absurd hn hd
  case inr.inr.inr.inl => exact absurd hn (hw b)
  case inr.inr.inr.inr.inr.inr.inr.inr => exact absurd hn hf
  all_goals simp

/-- What a step does to the TickCounter: a command runs it, any other step keeps it. -/
theorem step_tc_cases (hs : step s = .next t) :
    (∃ r e, s.nextStimulus = .tcCommand r e ∧ t.tc = s.tc.command s.cfg.tcMax r e) ∨ t.tc = s.tc := by
  rcases step_cases hs with
    ⟨l, p, r, -, -, rfl⟩ | ⟨-, -, rfl⟩ | ⟨b, bs, -, -, rfl⟩ | ⟨b, -, rfl⟩ | ⟨r, e, hn, rfl⟩ | ⟨-, rfl⟩ |
    ⟨v, -, rfl⟩ | ⟨-, rfl⟩ | ⟨-, rfl⟩
  case inr.inr.inr.inr.inl => exact .inl ⟨r, e, hn, by simp⟩
  all_goals exact .inr (by simp)

/-- Settles O14: the frame of each agent, from the lists of what a step can do. -/
theorem agentsShareNoState : Obligations.AgentsShareNoState := by
  unfold Obligations.AgentsShareNoState
  intro s t hs
  refine ⟨fun hn => step_keeps_device hn hs, fun hd hw hf => step_keeps_decoder hd hw hf hs, fun hn => ?_, ?_⟩
  · rcases step_tc_cases hs with ⟨r, e, h, -⟩ | h
    · exact absurd h (hn r e)
    · exact h
  · rcases step_device_cases hs with ⟨-, -, r, -, -, -, h⟩ | ⟨-, h⟩
    · exact ⟨r.2, h⟩
    · exact ⟨[], by simp [h]⟩

/-! ### Reset -/

/-- Settles O1, by the definition of the reset state. -/
theorem resetStateIsInitialState : Obligations.ResetStateIsInitialState := by
  unfold Obligations.ResetStateIsInitialState
  exact ⟨rfl, rfl, rfl, rfl, rfl, rfl, rfl, rfl⟩

/-- Settles O2: every count is 0 and the stream is empty. -/
theorem resetMeetsInvariants : Obligations.ResetMeetsInvariants := by
  unfold Obligations.ResetMeetsInvariants
  refine ⟨Nat.zero_le _, ⟨Nat.zero_le _, Nat.zero_le _, Nat.zero_le _, Nat.zero_le _, nofun, nofun⟩, ⟨nofun, rfl⟩, ?_⟩
  exact ⟨[], rfl, rfl⟩

/-! ### The TickCounter -/

theorem exec_tcNop_eq (s : State) : exec .tcNop s = .next (s.tcStep false false) := rfl
theorem exec_tcTick_eq (s : State) : exec .tcTick s = .next (s.tcStep false true) := rfl
theorem exec_tcReset_eq (en : Bool) (s : State) : exec (.tcReset en) s = .next (s.tcStep true en) := rfl
theorem exec_tcValue_eq (s : State) : exec .tcValue s = .next s.readCounter := rfl

@[simp] theorem TickCounter.command_reset (c : TickCounter) (m : Nat) (en : Bool) :
    c.command m true en = { count := 0 } := rfl
@[simp] theorem TickCounter.command_tick (c : TickCounter) (m : Nat) :
    c.command m false true = { count := satInc c.count m } := rfl
@[simp] theorem TickCounter.command_nop (c : TickCounter) (m : Nat) : c.command m false false = c := rfl

/-- Settles O17: the command `00` keeps the counter. -/
theorem tcNopKeepsCount : Obligations.TcNopKeepsCount := by
  unfold Obligations.TcNopKeepsCount
  intro s
  rw [exec_tcNop_eq, State.tcStep, TickCounter.command_nop]

/-- Settles O18: the command `01` is the saturating increment. -/
theorem tcTickSaturates : Obligations.TcTickSaturates := by
  unfold Obligations.TcTickSaturates
  intro s
  rw [exec_tcTick_eq, State.tcStep, TickCounter.command_tick, satInc]

/-- Settles O19: the commands `1x` clear the count. -/
theorem tcResetClearsCount : Obligations.TcResetClearsCount := by
  unfold Obligations.TcResetClearsCount
  intro s en
  rw [exec_tcReset_eq, State.tcStep, TickCounter.command_reset]

/-- Settles O20: the value read is the count. -/
theorem tcValueReadsCount : Obligations.TcValueReadsCount := by
  unfold Obligations.TcValueReadsCount
  intro s
  exact ⟨rfl, by rw [exec_tcValue_eq, State.readCounter, TickCounter.value]⟩

/-- No command takes a count within the maximum above it. -/
theorem TickCounter.command_le {c : TickCounter} {m : Nat} (r e : Bool) (h : c.count ≤ m) :
    (c.command m r e).count ≤ m := by
  cases r
  · cases e
    · exact h
    · exact satInc_le h
  · exact Nat.zero_le m

/-- Settles O22: a command keeps the bound, any other step the counter. -/
theorem tickCounterStaysWithinMax : Obligations.TickCounterStaysWithinMax := by
  unfold Obligations.TickCounterStaysWithinMax State.counterInv
  intro s t h hs
  rw [step_cfg hs]
  rcases step_tc_cases hs with ⟨r, e, -, htc⟩ | htc <;> rw [htc]
  · exact TickCounter.command_le r e h
  · exact h

/-- One command of the closed form: the number of ticks since the last reset (R104, R106). -/
def countCommand (n : Nat) (cmd : Bool × Bool) : Nat := if cmd.1 then 0 else if cmd.2 then n + 1 else n

theorem ticksSinceReset_eq_foldl (cmds : List (Bool × Bool)) : ticksSinceReset cmds = cmds.foldl countCommand 0 := rfl

/-- A command takes the capped number of ticks to the capped next number. -/
theorem TickCounter.command_min (m n : Nat) (cmd : Bool × Bool) :
    ({ count := min m n } : TickCounter).command m cmd.1 cmd.2 = { count := min m (countCommand n cmd) } := by
  obtain ⟨r, e⟩ := cmd
  cases r
  · cases e
    · rfl
    · have : satInc (min m n) m = min m (n + 1) := by rw [satInc_eq_min (Nat.min_le_left m n)]; omega
      simp [countCommand, this]
  · simp [countCommand]

/-- From any capped number `n` of ticks, a list of commands goes on counting. -/
theorem runs_commands (cmds : List (Bool × Bool)) (rest : List Stimulus) (n : Nat) {s : State}
    (htc : s.tc = { count := min s.cfg.tcMax n })
    (h : s.stimulus = cmds.map (fun cmd => .tcCommand cmd.1 cmd.2) ++ rest) :
    runs cmds.length s = .next { s with
      stimulus := rest, tc := { count := min s.cfg.tcMax (cmds.foldl countCommand n) } } := by
  induction cmds generalizing n s with
  | nil =>
    obtain rfl : s.stimulus = rest := h
    rw [List.foldl_nil, ← htc]
    rfl
  | cons cmd cmds ih =>
    obtain ⟨hn, hd⟩ := nextStimulus_cons h
    rw [List.length_cons, runs_succ (step_tcCommand hn), hd, ih (countCommand n cmd)]
    · rfl
    · rw [State.tcStep, htc, TickCounter.command_min]
    · rfl

/-- Settles O21: from a count of 0 the commands count from 0 ticks. -/
theorem tickCounterClosedForm : Obligations.TickCounterClosedForm := by
  unfold Obligations.TickCounterClosedForm
  intro s cmds rest h0 h
  rw [ticksSinceReset_eq_foldl]
  exact runs_commands cmds rest 0 (by rw [Nat.min_zero, ← h0]) h

end Sys2Proof.Machine
end

section
/-! Runs of ticks (45_observer_fsm.md R159 to R163): the device's part of a run as a relation, and the run
it stands for. -/

namespace Sys2Proof.Machine

/-- `Ticks c d es e tx`: the ticks `es` take the device from `d` to `e` and emit `tx`. -/
inductive Ticks (c : Config) : Device → List Stimulus → Device → List Byte → Prop where
  | nil (d : Device) : Ticks c d [] d []
  | cons {d d' e : Device} {l p : Bool} {tx ty : List Byte} {es : List Stimulus} :
      Fires c d p (d', tx) → Ticks c (d'.latch d l) es e ty → Ticks c d (.tick l p :: es) e (tx ++ ty)

theorem Ticks.append {c : Config} {d e f : Device} {es fs : List Stimulus} {tx ty : List Byte}
    (h : Ticks c d es e tx) (h' : Ticks c e fs f ty) : Ticks c d (es ++ fs) f (tx ++ ty) := by
  induction h with
  | nil d => exact h'
  | cons hf _ ih =>
    rw [List.cons_append, List.append_assoc]
    exact .cons hf (ih h')

/-- Ticks that are pending are run, and nothing of the device's side is left out. -/
theorem Ticks.runs {s : State} {es rest : List Stimulus} {e : Device} {tx : List Byte}
    (h : Ticks s.cfg s.dev es e tx) (hs : s.stimulus = es ++ rest) :
    ∃ t, runs es.length s = .next t ∧ t.cfg = s.cfg ∧ t.dev = e ∧ t.stream = s.stream ++ tx ∧ t.stimulus = rest := by
  generalize hc : s.cfg = c at h
  generalize hd : s.dev = d at h
  induction h generalizing s with
  | nil d => exact ⟨s, runs_zero s, hc, hd, (List.append_nil _).symm, hs⟩
  | @cons d d' e l p tx ty es hf _ ih =>
    subst hc hd
    have hs : s.stimulus = .tick l p :: (es ++ rest) := hs
    obtain ⟨t, ht, hcfg, hdev, hstream, hrest⟩ :=
      ih (s := ({ s with stimulus := es ++ rest }.sample l p).commitTick (d', tx)) rfl rfl rfl
    refine ⟨t, ?_, hcfg, hdev, by simpa using hstream, hrest⟩
    rw [List.length_cons, runs_succ (step_tick_of_fires hs hf), ht]

/-- Settles O55: whatever rules fire, the latches take the two samples. -/
theorem latchesHoldLastTwoSamples : Obligations.LatchesHoldLastTwoSamples := by
  unfold Obligations.LatchesHoldLastTwoSamples
  intro s l0 l1 p0 p1 rest hs
  obtain ⟨r0, hf0⟩ := exists_fires s.cfg s.dev p0
  obtain ⟨r1, hf1⟩ := exists_fires s.cfg (r0.1.latch s.dev l0) p1
  obtain ⟨t, ht, -, hdev, -⟩ := Ticks.runs (.cons hf0 (.cons hf1 (.nil _))) hs
  have hprev : t.dev.prev = l0 := by rw [hdev]; rfl
  have hcur : t.dev.cur = l1 := by rw [hdev]; rfl
  refine ⟨t, ht, hprev, hcur, ?_⟩
  simp only [Device.edge, Device.levelEq, Device.fall, Device.rise, hprev, hcur]
  cases l0 <;> cases l1 <;> decide

/-- Settles O60: the rules `press`, `abortReturn` and `start` in turn. -/
theorem shortestRestartIsTwoTicks : Obligations.ShortestRestartIsTwoTicks := by
  unfold Obligations.ShortestRestartIsTwoTicks
  intro s l0 l1 l2 p rest ha hs
  obtain ⟨t, ht, -, hdev, hstream, -⟩ :=
    Ticks.runs (.cons (.press ha) (.cons (.abortReturn p rfl) (.cons (.start rfl) (.nil _)))) hs
  exact ⟨t, ht, by rw [hdev]; rfl, hstream, by rw [hdev]; rfl, by rw [hdev]; rfl⟩

/-- One period of a held trigger: `Idle`, `TrainWait`, `Abort` and back, with only the latches changed (R162). -/
theorem Ticks.heldTrigger {c : Config} {d : Device} (hst : d.st = .idle) (l0 l1 l2 : Bool) :
    Ticks c d (pressedTicks [l0, l1, l2]) { d with cur := l2, prev := l1 } [c.start, c.finish] := by
  rw [show ({ d with cur := l2, prev := l1 } : Device) = { d with st := .idle, cur := l2, prev := l1 } by rw [hst]]
  exact .cons (.start hst) (.cons (.press rfl) (.cons (.abortReturn true rfl) (.nil _)))

/-- Any number of periods. -/
theorem Ticks.heldTrigger_periods {c : Config} {d : Device} (hst : d.st = .idle) {n : Nat} {ls : List Bool}
    (h : ls.length = 3 * n) : ∃ cur prev, Ticks c d (pressedTicks ls) { d with cur := cur, prev := prev }
      (List.replicate n [c.start, c.finish]).flatten := by
  induction n generalizing d ls with
  | zero =>
    obtain rfl := List.eq_nil_of_length_eq_zero h
    exact ⟨d.cur, d.prev, .nil d⟩
  | succ n ih =>
    obtain ⟨l0, l1, l2, ls, rfl⟩ : ∃ l0 l1 l2 ls', ls = l0 :: l1 :: l2 :: ls' := by
      match ls, h with
      | l0 :: l1 :: l2 :: ls', _ => exact ⟨l0, l1, l2, ls', rfl⟩
      | [], h | [_], h | [_, _], h => simp only [List.length_cons, List.length_nil] at h; omega
    obtain ⟨cur, prev, hrun⟩ := ih (d := { d with cur := l2, prev := l1 }) hst (ls := ls) (by simp at h; omega)
    exact ⟨cur, prev, (Ticks.heldTrigger hst l0 l1 l2).append hrun⟩

/-- Settles O59, by its periods. -/
theorem heldTriggerLoopsWithPeriodThree : Obligations.HeldTriggerLoopsWithPeriodThree := by
  unfold Obligations.HeldTriggerLoopsWithPeriodThree
  intro s n ls rest hst hs hlen
  obtain ⟨cur, prev, hrun⟩ := Ticks.heldTrigger_periods (c := s.cfg) hst hlen
  obtain ⟨t, ht, -, hdev, hstream, -⟩ := hrun.runs hs
  rw [pressedTicks, List.length_map, hlen] at ht
  exact ⟨t, ht, by rw [hdev]; exact hst, hstream, by rw [hdev], by rw [hdev], by rw [hdev], by rw [hdev], by rw [hdev]⟩

end Sys2Proof.Machine
end

section
/-! The duration of `Holding` (44_hold_timer.md R144). -/

namespace Sys2Proof.Machine

variable {c : Config} {d : Device}

/-- Before its last tick `Holding` counts down and emits nothing. -/
theorem Ticks.holding (hst : d.st = .holding) {ls : List Bool} (h : ls.length < max d.hold 1) :
    ∃ cur prev, Ticks c d (quietTicks ls) { d with cur := cur, prev := prev, hold := d.hold - ls.length } [] := by
  induction ls generalizing d with
  | nil => exact ⟨d.cur, d.prev, .nil d⟩
  | cons l ls ih =>
    rw [List.length_cons] at h
    obtain ⟨cur, prev, hrun⟩ := ih (d := { d with hold := d.hold - 1 }.latch d l) hst
      (show ls.length < max (d.hold - 1) 1 by omega)
    refine ⟨cur, prev, ?_⟩
    rw [List.length_cons, Nat.add_comm, ← Nat.sub_sub]
    exact .cons (.countDown hst (by omega)) hrun

/-- The last tick clears `hold` and leaves. -/
theorem Ticks.holding_end (hst : d.st = .holding) {ls : List Bool} (h : ls.length = max d.hold 1) :
    ∃ cur prev, Ticks c d (quietTicks ls) { d with st := .holdingDone, cur := cur, prev := prev, hold := 0 } [] := by
  obtain ⟨init, l, rfl⟩ : ∃ init l, ls = init ++ [l] := by
    rcases List.eq_nil_or_concat ls with rfl | h'
    · rw [List.length_nil] at h; omega
    · simpa using h'
  rw [List.length_append, List.length_singleton] at h
  obtain ⟨cur, prev, hrun⟩ := Ticks.holding (c := c) hst (ls := init) (by omega)
  have hend : Fires c { d with cur := cur, prev := prev, hold := d.hold - init.length } false _ :=
    .endHold hst (show d.hold - init.length ≤ 1 by omega)
  refine ⟨l, cur, ?_⟩
  rw [quietTicks, List.map_append]
  exact hrun.append (.cons hend (.nil _))

theorem quietTicks_split {ls : List Bool} {j : Nat} (hj : j < ls.length) :
    quietTicks ls = quietTicks (ls.take j) ++ .tick ls[j] false :: quietTicks (ls.drop (j + 1)) := by
  conv_lhs => rw [← List.take_append_drop j ls, List.drop_eq_getElem_cons hj]
  exact List.map_append

/-- Settles O56: by the countdown up to each tick, and by the whole of it. -/
theorem holdingLastsItsDuration : Obligations.HoldingLastsItsDuration := by
  unfold Obligations.HoldingLastsItsDuration
  intro s ls rest hst hs hlen
  refine ⟨fun j hj => ?_, ?_⟩
  · have htake : (ls.take j).length = j := by simp; omega
    obtain ⟨cur, prev, hrun⟩ := Ticks.holding (c := s.cfg) hst (ls := ls.take j) (by omega)
    rw [quietTicks_split hj, List.append_assoc] at hs
    obtain ⟨t, ht, -, hdev, -, hrest⟩ := hrun.runs hs
    rw [quietTicks, List.length_map, htake] at ht
    rw [htake] at hdev
    obtain ⟨r, hf⟩ := exists_fires t.cfg t.dev false
    have hst' : t.dev.st = .holding := by rw [hdev]; exact hst
    refine ⟨t, _, ht, hst', by rw [hdev], step_tick_of_fires hrest hf, t.dev.lineOverride_iff.2 hst'⟩
  · obtain ⟨cur, prev, hrun⟩ := Ticks.holding_end (c := s.cfg) hst hlen
    obtain ⟨t, ht, -, hdev, hstream, -⟩ := hrun.runs hs
    rw [quietTicks, List.length_map] at ht
    refine ⟨t, ht, by rw [hdev], by rw [hdev], by rw [hdev]; rfl, by rw [hstream, List.append_nil], ?_⟩
    rw [hdev]
    exact ⟨rfl, rfl, rfl, rfl⟩

end Sys2Proof.Machine
end

section
/-! Measuring a level (42_edge_detector.md R120, 43_measurement_accumulator.md R131 to R137, 45_observer_fsm.md R161).
The latch `cur` is one sample behind the line (D5), so a run is told by the levels the rules find in `cur`. -/

namespace Sys2Proof.Machine

variable {c : Config} {d e : Device} {v : Bool} {L : List Bool} {tx : List Byte}

/-- `Reads c d L e tx`: with no press, the levels `L` found in `cur` one after the other take the device from `d` to
`e`, which holds the last of them, and `tx` is emitted. The `cur` of `d` does not count. -/
inductive Reads (c : Config) : Device → List Bool → Device → List Byte → Prop where
  | last (d : Device) (l : Bool) : Reads c d [l] { d with cur := l } []
  | next {d d' e : Device} {l : Bool} {L : List Bool} {tx ty : List Byte} :
      Fires c { d with cur := l } false (d', tx) → Reads c { d' with prev := l } L e ty →
      Reads c d (l :: L) e (tx ++ ty)

/-- What is read is a run of ticks that sample all the levels but the first, which `cur` holds already. -/
theorem Reads.ticks {l : Bool} (h : Reads c d (l :: L) e tx) : Ticks c { d with cur := l } (quietTicks L) e tx := by
  induction L generalizing d l tx with
  | nil =>
    cases h with
    | last => exact .nil _
    | next _ h' => cases h'
  | cons l' L ih =>
    cases h with
    | next hf h' => exact .cons hf (ih h')

theorem Reads.with_cur (z : Bool) (h : Reads c d L e tx) : Reads c { d with cur := z } L e tx := by
  cases h with
  | last => exact .last _ _
  | next hf h' => exact .next hf h'

/-! ### Slots -/

theorem Device.setMeas_self (d : Device) (i : MeasIdx) : d.setMeas i (d.meas i) = d := by
  cases i <;> rfl

theorem Device.setMeas_setMeas (d : Device) (i : MeasIdx) (m n : Nat) :
    (d.setMeas i m).setMeas i n = d.setMeas i n := by
  cases i <;> rfl

@[simp] theorem Device.meas_with_cur (d : Device) (z : Bool) (i : MeasIdx) : { d with cur := z }.meas i = d.meas i := by
  cases i <;> rfl

@[simp] theorem Device.meas_latch (d old : Device) (l : Bool) (i : MeasIdx) : (d.latch old l).meas i = d.meas i := by
  cases i <;> rfl

/-- Counting at the level `v` writes the slot and finds both latches at `v`. -/
theorem Device.countSlot_at (hprev : d.prev = v) (hm : d.meas d.idx ≤ c.tickMax) :
    { { d with cur := v }.countSlot c with prev := v } =
      { d.setMeas d.idx (min c.tickMax (d.meas d.idx + 1)) with cur := v } := by
  subst hprev
  rw [← satInc_eq_min hm]
  rcases hi : d.idx <;> simp [Device.countSlot, hi, Device.setMeas, Device.meas]

theorem Device.advance_with_cur (d : Device) (z : Bool) :
    { d with cur := z }.advance = { d.advance with cur := z } := by
  rcases hi : d.idx <;> simp [Device.advance, hi, Device.setMeas, MeasIdx.next]

/-! ### Counting and finalizing -/

/-- `k` samples of the level being measured count `k` times, saturating (R132). -/
theorem Reads.count (k : Nat) (hst : d.st = .trainCount) (hprev : d.prev = v) (hm : d.meas d.idx ≤ c.tickMax)
    (h : Reads c (d.setMeas d.idx (min c.tickMax (d.meas d.idx + k))) L e tx) :
    Reads c d (List.replicate k v ++ L) e tx := by
  induction k generalizing d with
  | zero =>
    rw [Nat.add_zero, Nat.min_eq_right hm, Device.setMeas_self] at h
    exact h
  | succ k ih =>
    rw [List.replicate_succ, List.cons_append]
    have hf : Fires c { d with cur := v } false _ := .count hst hprev.symm
    refine .next (ty := tx) hf ?_
    rw [Device.countSlot_at hprev hm]
    refine Reads.with_cur v (ih (by simpa using hst) (by simpa using hprev) ?_ ?_)
    · simp [Device.meas_setMeas]
    · simp only [Device.setMeas_idx, Device.meas_setMeas, if_true, Device.setMeas_setMeas]
      rwa [show min c.tickMax (min c.tickMax (d.meas d.idx + 1) + k) = min c.tickMax (d.meas d.idx + (k + 1)) by omega]

/-- A level that ends is finalized and emitted, and the next slot starts with 1 (R133, R134). -/
theorem Reads.advance (hst : d.st = .trainCount) (hprev : d.prev = v) (hi : d.idx ≠ .low1)
    (h : Reads c { d.advance with prev := !v } L e tx) :
    Reads c d ((!v) :: L) e (encodeMeasurement c (d.meas d.idx) ++ tx) := by
  rw [← d.meas_with_cur (!v)]
  refine .next (.advance hst (by simp [hprev]) hi) ?_
  rw [Device.advance_with_cur]
  exact h.with_cur (!v)

/-- The third level that ends is emitted with the end of training (R134, R136). -/
theorem Reads.finishTraining (hst : d.st = .trainCount) (hprev : d.prev = v) (hi : d.idx = .low1)
    (h : Reads c { d with st := .stretchWait, prev := !v } L e tx) :
    Reads c d ((!v) :: L) e (encodeMeasurement c d.low1 ++ encodeEndOfTraining c ++ tx) :=
  .next (.finishTraining hst (by simp [hprev]) hi) (h.with_cur (!v))

/-- An edge in `TrainCount` emits the slot of `idx`, the third with the bare `MEASURED`, and keeps it. -/
theorem Fires.exists_finalize (hst : d.st = .trainCount) (he : d.cur ≠ d.prev) :
    ∃ d', Fires c d false (d', encodeMeasurement c (d.meas d.idx) ++ if d.idx = .low1 then [c.measured] else []) ∧
      d'.meas d.idx = d.meas d.idx := by
  by_cases hi : d.idx = .low1
  · have hf := Fires.finishTraining (c := c) hst he hi
    rw [if_pos hi, hi]
    exact ⟨_, hf, rfl⟩
  · have hf := Fires.advance (c := c) hst he hi
    rw [if_neg hi, List.append_nil]
    refine ⟨_, hf, ?_⟩
    rcases d.advance_cases with ⟨h, e⟩ | ⟨h, e⟩ | ⟨h, -⟩
    · rw [e, h]; rfl
    · rw [e, h]; rfl
    · exact absurd h hi

/-- Settles O57: the slot counts the level from 1 on, and the tick that finds its end finalizes it. -/
theorem measurementIsLevelDuration : Obligations.MeasurementIsLevelDuration := by
  unfold Obligations.MeasurementIsLevelDuration
  rintro s v x n rest hst rfl hprev hm hs
  have hcount := Reads.count (c := s.cfg) (n + 1) hst hprev (hm ▸ s.cfg.one_le_tickMax) (.last _ (!s.dev.cur))
  rw [List.replicate_succ, List.cons_append, hm, show 1 + (n + 1) = n + 2 by omega] at hcount
  rw [show quietTicks (List.replicate n s.dev.cur ++ [!s.dev.cur, x]) ++ rest =
    quietTicks (List.replicate n s.dev.cur ++ [!s.dev.cur]) ++ .tick x false :: rest by simp [quietTicks]] at hs
  obtain ⟨u, hu, hcfg, hdev, hstream, hrest⟩ := hcount.ticks.runs hs
  have hlen : (quietTicks (List.replicate n s.dev.cur ++ [!s.dev.cur])).length = n + 1 := by simp [quietTicks]
  have hidx : u.dev.idx = s.dev.idx := by simp [hdev]
  have hmeas : u.dev.meas s.dev.idx = min s.cfg.tickMax (n + 2) := by
    rw [hdev, Device.meas_with_cur, Device.meas_setMeas, if_pos rfl]
  obtain ⟨d', hf, hkeep⟩ :=
    Fires.exists_finalize (c := u.cfg) (d := u.dev) (by simp [hdev, hst]) (by simp [hdev, hprev])
  rw [hidx, hmeas] at hf hkeep
  have hlast := (runs_add hu 1).trans (runs_succ (step_tick_of_fires hrest hf) 0)
  rw [hlen] at hlast
  exact ⟨_, hlast, (Device.meas_latch ..).trans hkeep, by simp [hcfg], by simp [hstream]⟩

/-- The device in `TrainCount`, measuring the slot of `idx`: the level is the parity of `idx` (R38). -/
def Device.training (d : Device) (idx : MeasIdx) (low0 high0 low1 : Nat) : Device :=
  { d with st := .trainCount, prev := idx.odd, idx := idx, low0 := low0, high0 := high0, low1 := low1 }

/-- The first low level is measured in slot 0. -/
theorem Reads.training_low0 (k m1 m2 : Nat) (h : Reads c (d.training .high0 (min c.tickMax (k + 1)) 1 m2) L e tx) :
    Reads c (d.training .low0 1 m1 m2) (List.replicate k false ++ true :: L) e
      (encodeMeasurement c (min c.tickMax (k + 1)) ++ tx) := by
  rw [Nat.add_comm] at h ⊢
  exact .count k rfl rfl c.one_le_tickMax (.advance rfl rfl nofun h)

/-- The high level after it is measured in slot 1. -/
theorem Reads.training_high0 (k m0 m2 : Nat) (h : Reads c (d.training .low1 m0 (min c.tickMax (k + 1)) 1) L e tx) :
    Reads c (d.training .high0 m0 1 m2) (List.replicate k true ++ false :: L) e
      (encodeMeasurement c (min c.tickMax (k + 1)) ++ tx) := by
  rw [Nat.add_comm] at h ⊢
  exact .count k rfl rfl c.one_le_tickMax (.advance rfl rfl nofun h)

/-- The second low level is measured in slot 2, and the training ends. -/
theorem Reads.training_low1 (k m0 m1 : Nat) (x : Bool) :
    Reads c (d.training .low1 m0 m1 1) (List.replicate k false ++ [true, x])
      { d.training .low1 m0 m1 (min c.tickMax (k + 1)) with st := .stretchWait, prev := true, cur := x }
      (encodeMeasurement c (min c.tickMax (k + 1)) ++ encodeEndOfTraining c) := by
  rw [Nat.add_comm]
  have h := Reads.count (c := c) (d := d.training .low1 m0 m1 1) k rfl rfl c.one_le_tickMax
    (.finishTraining rfl rfl rfl (.last _ x))
  rwa [List.append_nil] at h

/-- From `TrainWait` with the line high the falling edge loads the slots, and the three levels are measured. -/
theorem Reads.trainWait (a b n : Nat) (x : Bool) (hst : d.st = .trainWait) :
    Reads c d (true :: false :: (List.replicate a false ++ true :: (List.replicate b true ++ false ::
        (List.replicate n false ++ [true, x]))))
      { d.training .low1 (min c.tickMax (a + 1)) (min c.tickMax (b + 1)) (min c.tickMax (n + 1)) with
        st := .stretchWait, prev := true, cur := x }
      (encodeTuple c (min c.tickMax (a + 1)) (min c.tickMax (b + 1)) (min c.tickMax (n + 1))) := by
  have h := Reads.training_low0 a 1 1 (Reads.training_high0 b _ 1 (Reads.training_low1 (c := c) (d := d) n _ _ x))
  rw [← List.append_assoc, ← List.append_assoc] at h
  have hwait : Fires c { d with cur := true } false ({ d with cur := true }, []) := .awaitTraining hst (by simp)
  have hload : Fires c { d with prev := true, cur := false } false _ := .load hst rfl rfl
  have hloaded := Reads.next (d := { d with prev := true }) hload (h.with_cur false)
  have hwaited := Reads.next hwait (hloaded.with_cur true)
  exact hwaited

/-- Settles O58: what `cur` shows is the high level it holds and then the samples. -/
theorem trainingMeasuresThreeHalfPeriods : Obligations.TrainingMeasuresThreeHalfPeriods := by
  unfold Obligations.TrainingMeasuresThreeHalfPeriods
  intro s a b n x rest hst hcur ha hb hn hs
  obtain ⟨a, rfl⟩ := Nat.exists_eq_add_of_le' ha
  obtain ⟨b, rfl⟩ := Nat.exists_eq_add_of_le' hb
  obtain ⟨n, rfl⟩ := Nat.exists_eq_add_of_le' hn
  have hticks := (Reads.trainWait (c := s.cfg) a b n x hst).ticks
  rw [show { s.dev with cur := true } = s.dev by rw [← hcur]] at hticks
  simp only [List.replicate_succ, List.append_assoc, List.cons_append] at hs
  obtain ⟨t, ht, -, hdev, hstream, -⟩ := hticks.runs hs
  refine ⟨t, ?_, ?_⟩
  · rw [← ht]
    congr 1
    simp [quietTicks]
    omega
  · rw [hdev]
    exact ⟨rfl, rfl, rfl, rfl, rfl, rfl, rfl, rfl, hstream⟩

end Sys2Proof.Machine
end
